-- ==== Sys2Proof/Word.lean ====
section
/-! DEFINITION. Signals, words and instance numbers: the value types of 00_scope.md R6 to R9. -/

namespace Sys2Proof

/-- R6: a Signal is one bit. A typed port of one bit is a Bool (R87), so no other value exists here. -/
abbrev Sig := Bool

/-- R7: the canonical word, `Word 16`. -/
abbrev Word := BitVec 16

/-- The number of an instance of a sequential component (R20 fixes the set of instances when the machine
is built; log 2: 256 of each). -/
abbrev Inst := BitVec 8

/-- R9: the unsigned value of a word. -/
abbrev uval {n : Nat} (w : BitVec n) : Nat := w.toNat

/-- R9: the two's-complement value of a word. -/
abbrev sval {n : Nat} (w : BitVec n) : Int := w.toInt

/-- R8: the source's bit position `p` (0 is the most significant) of an n-bit word is bit n-1-p by significance. -/
def sourceBit {n : Nat} (w : BitVec n) (p : Nat) : Sig := w.getLsbD (n - 1 - p)

end Sys2Proof
end

