-- ==== Sys2Proof/Config.lean ====
section
/-! DEFINITION. The parameters of the block (00_scope.md R5), its constants, the names of its storage arrays
(10_state.md R32), and the free values: constants without a body, so that no proof can see what they are. -/

namespace Sys2Proof

/-- R56, D13: what a read of an unmapped main-memory address does. -/
inductive UnmappedRead
  | draw | fault
  deriving DecidableEq, Repr

/-- R56, D13: what a write to an unmapped main-memory address does. -/
inductive UnmappedWrite
  | fault | ignore
  deriving DecidableEq, Repr

/-- R400, D14: what a storage bit holds when its instance is created. -/
inductive PowerOn
  | zero | draw
  deriving DecidableEq, Repr

/-- The parameters of R5. `SCREEN_WORDS` is given by its base-2 logarithm, the screen's address width
(R50: the width is log2 of the size), so it is a power of two by construction (log 8). -/
structure Config where
  /-- `SCREEN_BASE` -/
  screenBase : Nat
  /-- log2 `SCREEN_WORDS`, the width of SCREEN's address port -/
  screenAw : Nat
  /-- `KBD_ADDR` -/
  kbdAddr : Nat
  unmappedRead : UnmappedRead
  unmappedWrite : UnmappedWrite
  powerOn : PowerOn
  deriving DecidableEq, Repr

/-- `SCREEN_WORDS` (R5). -/
def Config.screenWords (c : Config) : Nat := 2 ^ c.screenAw

/-- The defaults of R5 (D12 to D14; log 9). -/
def Config.standard : Config where
  screenBase := 0x4000
  screenAw := 13
  kbdAddr := 0x6000
  unmappedRead := .draw
  unmappedWrite := .fault
  powerOn := .zero

/-- `RAM_WORDS` (R5); `RAM_BASE` is 0. -/
def ramWords : Nat := 16384

/-- The number of main-memory addresses, `MEM_AW` = 15 (R5). -/
def memAddresses : Nat := 32768

/-- `KBD_INIT` (R5, D15). -/
def kbdInit : Word := 0x0000#16

/-- R5: "The three regions must be disjoint and lie inside 0..32767." -/
def Config.wf (c : Config) : Bool :=
  decide (ramWords ≤ c.screenBase) && decide (c.screenBase + c.screenWords ≤ memAddresses)
    && decide (ramWords ≤ c.kbdAddr) && decide (c.kbdAddr < memAddresses)
    && (decide (c.kbdAddr < c.screenBase) || decide (c.screenBase + c.screenWords ≤ c.kbdAddr))

/-- The word-storing elements of R32, one array each. `memRam`, `memScreen` and `memKbd` are the parts of a
main-memory instance (R28); `screen` and `kbd` are stand-alone SCREEN and KEYBOARD instances. -/
inductive WordBank
  | register | pc | ram8 | ram64 | ram512 | ram4k | ram16k | screen | kbd | memRam | memScreen | memKbd
  deriving DecidableEq, Repr

/-- The bit-storing elements of R32. -/
inductive BitBank
  | dff | bit
  deriving DecidableEq, Repr

/-- `draw Word16` (R10): the n-th free word of a run. No body: any 16-bit word, under no law (log 10). -/
opaque Config.freeWord : Nat → BitVec 16

/-- R400 under `POWER_ON = draw`: the word a cell holds when its instance is created (log 12). -/
opaque Config.powerOnWordDraw : WordBank → Nat → BitVec 16

/-- R400 under `POWER_ON = draw`: the bit a DFF or BIT holds when it is created (log 12). -/
opaque Config.powerOnBitDraw : BitBank → Nat → Bool

end Sys2Proof
end

