-- ==== Sys2Proof/Syntax.lean ====
section
/-! DEFINITION. The components (30_encoding.md R81), their ports' names, and the operations: one constructor of
`Instr` per row of opcode_table.json. A constructor carries every input port that its row leaves free, ignored
ones included (R82); a control input that the row fixes is not carried. -/

namespace Sys2Proof

/-- The components of R81, in its order. -/
inductive Component
  | nand | not | and | or | xor | mux | dmux
  | not16 | and16 | or16 | xor16 | mux16 | dmux16 | or8way
  | mux4way | mux4way16 | mux8way | mux8way16
  | dmux4way | dmux4way16 | dmux8way | dmux8way16
  | halfadder | fulladder | add16 | inc16
  | dff | bit | register | pc
  | ram8 | ram64 | ram512 | ram4k | ram16k | screen | keyboard | memory
  deriving DecidableEq, Repr

/-- The port names of R81 (`inp` is the port `in`). -/
inductive PortName
  | inp | a | b | c | d | e | f | g | h | sel | address | load | clock | reset | inc | out | sum | carry
  deriving DecidableEq, Repr

/-- What a port carries: one signal, or one 16-bit word. -/
inductive PortValue
  | sig (v : Sig)
  | word (w : Word)
  deriving DecidableEq, Repr

/-- An operation of the block: one evaluation of one component (R80). The first argument of a sequential
operation is the number of the component instance. -/
inductive Instr
  -- 40_gates.md
  | nand (a b : Sig)
  | not (inp : Sig)
  | and (a b : Sig)
  | or (a b : Sig)
  | xor (a b : Sig)
  | mux (a b sel : Sig)
  | dmux (inp sel : Sig)
  | not16 (inp : Word)
  | and16 (a b : Word)
  | or16 (a b : Word)
  | xor16 (a b : Word)
  | mux16 (a b : Word) (sel : Sig)
  | dmux16 (inp : Word) (sel : Sig)
  | or8way (inp : BitVec 8)
  | mux4way (a b c d : Sig) (sel : BitVec 2)
  | mux4way16 (a b c d : Word) (sel : BitVec 2)
  | mux8way (a b c d e f g h : Sig) (sel : BitVec 3)
  | mux8way16 (a b c d e f g h : Word) (sel : BitVec 3)
  | dmux4way (inp : Sig) (sel : BitVec 2)
  | dmux4way16 (inp : Word) (sel : BitVec 2)
  | dmux8way (inp : Sig) (sel : BitVec 3)
  | dmux8way16 (inp : Word) (sel : BitVec 3)
  -- 41_arithmetic.md
  | halfadder (a b : Sig)
  | fulladder (a b c : Sig)
  | add16 (a b : Word)
  | inc16 (inp : Word)
  -- 42_sequential.md
  | dffLatch (i : Inst) (inp : Sig)
  | dffHold (i : Inst) (inp : Sig)
  | bitLoad (i : Inst) (inp : Sig)
  | bitHold (i : Inst) (inp load clock : Sig)
  | registerLoad (i : Inst) (inp : Word)
  | registerHold (i : Inst) (inp : Word) (load clock : Sig)
  | pcReset (i : Inst) (inp : Word) (load inc : Sig)
  | pcLoad (i : Inst) (inp : Word) (inc : Sig)
  | pcInc (i : Inst) (inp : Word)
  | pcHold (i : Inst) (inp : Word) (reset load inc clock : Sig)
  -- 43_memory_hierarchy.md
  | ram8Write (i : Inst) (inp : Word) (address : BitVec 3)
  | ram8Read (i : Inst) (inp : Word) (address : BitVec 3) (load clock : Sig)
  | ram64Write (i : Inst) (inp : Word) (address : BitVec 6)
  | ram64Read (i : Inst) (inp : Word) (address : BitVec 6) (load clock : Sig)
  | ram512Write (i : Inst) (inp : Word) (address : BitVec 9)
  | ram512Read (i : Inst) (inp : Word) (address : BitVec 9) (load clock : Sig)
  | ram4kWrite (i : Inst) (inp : Word) (address : BitVec 12)
  | ram4kRead (i : Inst) (inp : Word) (address : BitVec 12) (load clock : Sig)
  | ram16kWrite (i : Inst) (inp : Word) (address : BitVec 14)
  | ram16kRead (i : Inst) (inp : Word) (address : BitVec 14) (load clock : Sig)
  -- SCREEN's port has log2 SCREEN_WORDS bits (13 by default): at most 14, since the screen lies above the RAM (R5)
  | screenWrite (i : Inst) (inp : Word) (address : BitVec 14)
  | screenRead (i : Inst) (inp : Word) (address : BitVec 14) (load clock : Sig)
  | keyboardRead (i : Inst)
  | memRamWrite (i : Inst) (inp : Word) (address : BitVec 15)
  | memRamRead (i : Inst) (inp : Word) (address : BitVec 15) (load clock : Sig)
  | memScreenWrite (i : Inst) (inp : Word) (address : BitVec 15)
  | memScreenRead (i : Inst) (inp : Word) (address : BitVec 15) (load clock : Sig)
  | memKbdWrite (i : Inst) (inp : Word) (address : BitVec 15)
  | memKbdRead (i : Inst) (inp : Word) (address : BitVec 15) (load clock : Sig)
  | memUnmappedWrite (i : Inst) (inp : Word) (address : BitVec 15)
  | memUnmappedRead (i : Inst) (inp : Word) (address : BitVec 15) (load clock : Sig)
  deriving DecidableEq, Repr

end Sys2Proof
end

