-- ==== Sys2Proof/Machine/Operands.lean ====
section
/-! DEFINITION. Operand forms: selectors (30_encoding.md R83), the outputs a demultiplexer drives, and the
main-memory map with its offsets (20_memory.md R55, 30_encoding.md R85). -/

namespace Sys2Proof

/-- R83, R106 (D4): a 1-bit selector picks `a` at 0 and `b` at 1. -/
def pick2 {α : Type} (a b : α) (sel : Sig) : α := if sel then b else a

/-- R83, R115: a 2-bit selector picks input number `uval sel` of a, b, c, d. -/
def pick4 {α : Type} (a b c d : α) (sel : BitVec 2) : α := [a, b, c, d].getD (uval sel) a

/-- R83, R117: a 3-bit selector picks input number `uval sel` of a, ..., h. -/
def pick8 {α : Type} (a b c d e f g h : α) (sel : BitVec 3) : α :=
  [a, b, c, d, e, f, g, h].getD (uval sel) a

/-- R107, R119, R121: of `n` outputs, number `sel` is `inp` and every other is `zero`. -/
def route {α : Type} (zero inp : α) (n sel : Nat) : List α :=
  (List.range n).map fun j => if sel = j then inp else zero

/-- R83: inputs and outputs are numbered a = 0, ..., h = 7. -/
def numberedPorts : List PortName := [.a, .b, .c, .d, .e, .f, .g, .h]

/-- The output ports a, b, ... driven with signals. -/
def sigPorts (vs : List Sig) : List (PortName × PortValue) := numberedPorts.zip (vs.map PortValue.sig)

/-- The output ports a, b, ... driven with words. -/
def wordPorts (vs : List Word) : List (PortName × PortValue) := numberedPorts.zip (vs.map PortValue.word)

/-- The regions of the main memory (R55, R56). -/
inductive Region
  | ram | screen | keyboard | unmapped
  deriving DecidableEq, Repr

/-- R55, R82: the region of a main-memory address, tested in the order RAM, screen, keyboard, unmapped. -/
def Config.region (cfg : Config) (address : BitVec 15) : Region :=
  if uval address < ramWords then .ram
  else if cfg.screenBase ≤ uval address ∧ uval address < cfg.screenBase + cfg.screenWords then .screen
  else if uval address = cfg.kbdAddr then .keyboard
  else .unmapped

/-- R85, R215: the RAM offset `address[13:0]` (a cell address is kept at the main memory's 15 bits). -/
def ramOffset (address : BitVec 15) : BitVec 15 := (address.extractLsb' 0 14).setWidth 15

/-- R217: the screen offset `uval(address) - SCREEN_BASE`. -/
def Config.screenOffset (cfg : Config) (address : BitVec 15) : BitVec 15 :=
  BitVec.ofNat 15 (uval address - cfg.screenBase)

end Sys2Proof
end

