-- ==== Sys2Proof/WellFormed.lean ====
section
/-! DEFINITION. Which terms of `Instr` are operations of the block: the free control inputs of a HOLD or READ row
do not match an earlier row (30_encoding.md R82), a SCREEN address fits the port (R50), and a MEMORY row's address
lies in the row's region (R55, R82). -/

namespace Sys2Proof

/-- R82: the row `--` after `11` is selected, that is not both `load` and `clock`. -/
def idleControl (load clock : Sig) : Bool := !(load && clock)

/-- R82, R171: PC.HOLD is selected when `clock = 0` or none of reset, load, inc is asserted. -/
def pcIdleControl (reset load inc clock : Sig) : Bool := !(clock && (reset || load || inc))

/-- The operation is one that an evaluation can select under these parameters. -/
def Instr.wellFormed (cfg : Config) : Instr → Bool
  | .nand _ _ => true
  | .not _ => true
  | .and _ _ => true
  | .or _ _ => true
  | .xor _ _ => true
  | .mux _ _ _ => true
  | .dmux _ _ => true
  | .not16 _ => true
  | .and16 _ _ => true
  | .or16 _ _ => true
  | .xor16 _ _ => true
  | .mux16 _ _ _ => true
  | .dmux16 _ _ => true
  | .or8way _ => true
  | .mux4way _ _ _ _ _ => true
  | .mux4way16 _ _ _ _ _ => true
  | .mux8way _ _ _ _ _ _ _ _ _ => true
  | .mux8way16 _ _ _ _ _ _ _ _ _ => true
  | .dmux4way _ _ => true
  | .dmux4way16 _ _ => true
  | .dmux8way _ _ => true
  | .dmux8way16 _ _ => true
  | .halfadder _ _ => true
  | .fulladder _ _ _ => true
  | .add16 _ _ => true
  | .inc16 _ => true
  | .dffLatch _ _ => true
  | .dffHold _ _ => true
  | .bitLoad _ _ => true
  | .bitHold _ _ load clock => idleControl load clock
  | .registerLoad _ _ => true
  | .registerHold _ _ load clock => idleControl load clock
  | .pcReset _ _ _ _ => true
  | .pcLoad _ _ _ => true
  | .pcInc _ _ => true
  | .pcHold _ _ reset load inc clock => pcIdleControl reset load inc clock
  | .ram8Write _ _ _ => true
  | .ram8Read _ _ _ load clock => idleControl load clock
  | .ram64Write _ _ _ => true
  | .ram64Read _ _ _ load clock => idleControl load clock
  | .ram512Write _ _ _ => true
  | .ram512Read _ _ _ load clock => idleControl load clock
  | .ram4kWrite _ _ _ => true
  | .ram4kRead _ _ _ load clock => idleControl load clock
  | .ram16kWrite _ _ _ => true
  | .ram16kRead _ _ _ load clock => idleControl load clock
  | .screenWrite _ _ address => decide (uval address < cfg.screenWords)
  | .screenRead _ _ address load clock => decide (uval address < cfg.screenWords) && idleControl load clock
  | .keyboardRead _ => true
  | .memRamWrite _ _ address => decide (cfg.region address = .ram)
  | .memRamRead _ _ address load clock => decide (cfg.region address = .ram) && idleControl load clock
  | .memScreenWrite _ _ address => decide (cfg.region address = .screen)
  | .memScreenRead _ _ address load clock => decide (cfg.region address = .screen) && idleControl load clock
  | .memKbdWrite _ _ address => decide (cfg.region address = .keyboard)
  | .memKbdRead _ _ address load clock => decide (cfg.region address = .keyboard) && idleControl load clock
  | .memUnmappedWrite _ _ address => decide (cfg.region address = .unmapped)
  | .memUnmappedRead _ _ address load clock => decide (cfg.region address = .unmapped) && idleControl load clock

end Sys2Proof
end

