-- ==== Sys2Proof/Decode.lean ====
section
/-! DEFINITION. From port values to operations and back (30_encoding.md R80 to R87): the ports of every component,
the opcode table's rows, `select` (R82's choice of the row), and the frame that carries one evaluation: its decoder
and its encoder. The block has no instruction words (R80), so the frame's layout is the model's (log 1). -/

namespace Sys2Proof

/-- The input ports of a component with their widths, in the order of R81. -/
def Component.inputs (cfg : Config) : Component → List (PortName × Nat)
  | .nand | .and | .or | .xor | .halfadder => [(.a, 1), (.b, 1)]
  | .not => [(.inp, 1)]
  | .mux => [(.a, 1), (.b, 1), (.sel, 1)]
  | .dmux => [(.inp, 1), (.sel, 1)]
  | .not16 | .inc16 => [(.inp, 16)]
  | .and16 | .or16 | .xor16 | .add16 => [(.a, 16), (.b, 16)]
  | .mux16 => [(.a, 16), (.b, 16), (.sel, 1)]
  | .dmux16 => [(.inp, 16), (.sel, 1)]
  | .or8way => [(.inp, 8)]
  | .mux4way => [(.a, 1), (.b, 1), (.c, 1), (.d, 1), (.sel, 2)]
  | .mux4way16 => [(.a, 16), (.b, 16), (.c, 16), (.d, 16), (.sel, 2)]
  | .mux8way => [(.a, 1), (.b, 1), (.c, 1), (.d, 1), (.e, 1), (.f, 1), (.g, 1), (.h, 1), (.sel, 3)]
  | .mux8way16 =>
    [(.a, 16), (.b, 16), (.c, 16), (.d, 16), (.e, 16), (.f, 16), (.g, 16), (.h, 16), (.sel, 3)]
  | .dmux4way => [(.inp, 1), (.sel, 2)]
  | .dmux4way16 => [(.inp, 16), (.sel, 2)]
  | .dmux8way => [(.inp, 1), (.sel, 3)]
  | .dmux8way16 => [(.inp, 16), (.sel, 3)]
  | .fulladder => [(.a, 1), (.b, 1), (.c, 1)]
  | .dff => [(.inp, 1), (.c, 1)]
  | .bit => [(.inp, 1), (.load, 1), (.clock, 1)]
  | .register => [(.inp, 16), (.load, 1), (.clock, 1)]
  | .pc => [(.inp, 16), (.reset, 1), (.load, 1), (.inc, 1), (.clock, 1)]
  | .ram8 => [(.inp, 16), (.address, 3), (.load, 1), (.clock, 1)]
  | .ram64 => [(.inp, 16), (.address, 6), (.load, 1), (.clock, 1)]
  | .ram512 => [(.inp, 16), (.address, 9), (.load, 1), (.clock, 1)]
  | .ram4k => [(.inp, 16), (.address, 12), (.load, 1), (.clock, 1)]
  | .ram16k => [(.inp, 16), (.address, 14), (.load, 1), (.clock, 1)]
  | .screen => [(.inp, 16), (.address, cfg.screenAw), (.load, 1), (.clock, 1)]
  | .keyboard => []
  | .memory => [(.inp, 16), (.address, 15), (.load, 1), (.clock, 1)]

/-- The output ports of a component with their widths, in the order of R81. -/
def Component.outputs : Component → List (PortName × Nat)
  | .nand | .not | .and | .or | .xor | .mux | .or8way | .mux4way | .mux8way | .dff | .bit => [(.out, 1)]
  | .not16 | .and16 | .or16 | .xor16 | .mux16 | .mux4way16 | .mux8way16 | .add16 | .inc16 | .register | .pc
  | .ram8 | .ram64 | .ram512 | .ram4k | .ram16k | .screen | .keyboard | .memory => [(.out, 16)]
  | .dmux => [(.a, 1), (.b, 1)]
  | .dmux16 => [(.a, 16), (.b, 16)]
  | .dmux4way => [(.a, 1), (.b, 1), (.c, 1), (.d, 1)]
  | .dmux4way16 => [(.a, 16), (.b, 16), (.c, 16), (.d, 16)]
  | .dmux8way => [(.a, 1), (.b, 1), (.c, 1), (.d, 1), (.e, 1), (.f, 1), (.g, 1), (.h, 1)]
  | .dmux8way16 => [(.a, 16), (.b, 16), (.c, 16), (.d, 16), (.e, 16), (.f, 16), (.g, 16), (.h, 16)]
  | .halfadder | .fulladder => [(.sum, 1), (.carry, 1)]

/-- The widths of the control word's fields (R82), least significant field first, as the opcode table numbers the
control word's bits. MEMORY's control word ends in its address. -/
def Component.controlWidths : Component → List Nat
  | .nand | .not | .and | .or | .xor | .mux | .dmux | .not16 | .and16 | .or16 | .xor16 | .mux16 | .dmux16
  | .or8way | .mux4way | .mux4way16 | .mux8way | .mux8way16 | .dmux4way | .dmux4way16 | .dmux8way | .dmux8way16
  | .halfadder | .fulladder | .add16 | .inc16 | .keyboard => []
  | .dff => [1]
  | .bit | .register | .ram8 | .ram64 | .ram512 | .ram4k | .ram16k | .screen => [1, 1]
  | .pc => [1, 1, 1, 1]
  | .memory => [15, 1, 1]

/-- The widths of the inputs that are not in the control word, in the order of R81. SCREEN's address takes the 14
bits of its largest size (R5). -/
def Component.dataWidths : Component → List Nat
  | .nand | .and | .or | .xor | .halfadder | .dmux => [1, 1]
  | .not | .dff | .bit => [1]
  | .mux | .fulladder => [1, 1, 1]
  | .not16 | .inc16 | .register | .pc | .memory => [16]
  | .and16 | .or16 | .xor16 | .add16 => [16, 16]
  | .mux16 => [16, 16, 1]
  | .dmux16 => [16, 1]
  | .or8way => [8]
  | .mux4way => [1, 1, 1, 1, 2]
  | .mux4way16 => [16, 16, 16, 16, 2]
  | .mux8way => [1, 1, 1, 1, 1, 1, 1, 1, 3]
  | .mux8way16 => [16, 16, 16, 16, 16, 16, 16, 16, 3]
  | .dmux4way => [1, 2]
  | .dmux4way16 => [16, 2]
  | .dmux8way => [1, 3]
  | .dmux8way16 => [16, 3]
  | .ram8 => [16, 3]
  | .ram64 => [16, 6]
  | .ram512 => [16, 9]
  | .ram4k => [16, 12]
  | .ram16k => [16, 14]
  | .screen => [16, 14]
  | .keyboard => []

/-- The components that hold state and obey the clocking discipline (R20, R405): DFF, BIT, REGISTER, PC, the RAM
family, SCREEN and MEMORY. KEYBOARD only shows the collaborator's value (log 6). -/
def Component.sequential : Component → Bool
  | .dff | .bit | .register | .pc | .ram8 | .ram64 | .ram512 | .ram4k | .ram16k | .screen | .memory => true
  | .nand | .not | .and | .or | .xor | .mux | .dmux | .not16 | .and16 | .or16 | .xor16 | .mux16 | .dmux16
  | .or8way | .mux4way | .mux4way16 | .mux8way | .mux8way16 | .dmux4way | .dmux4way16 | .dmux8way | .dmux8way16
  | .halfadder | .fulladder | .add16 | .inc16 | .keyboard => false

/-! ### The opcode table -/

/-- One row of opcode_table.json: a control word `w` matches it when `w &&& mask = value`. -/
structure Row where
  component : Component
  width : Nat
  mask : Nat
  value : Nat
  mnemonic : String
  deriving DecidableEq, Repr

/-- opcode_table.json, the combinational rows, in its order. -/
def gateRows : List Row := [
  ⟨.nand, 0, 0x0, 0x0, "NAND"⟩,
  ⟨.not, 0, 0x0, 0x0, "NOT"⟩,
  ⟨.and, 0, 0x0, 0x0, "AND"⟩,
  ⟨.or, 0, 0x0, 0x0, "OR"⟩,
  ⟨.xor, 0, 0x0, 0x0, "XOR"⟩,
  ⟨.mux, 0, 0x0, 0x0, "MUX"⟩,
  ⟨.dmux, 0, 0x0, 0x0, "DMUX"⟩,
  ⟨.not16, 0, 0x0, 0x0, "NOT16"⟩,
  ⟨.and16, 0, 0x0, 0x0, "AND16"⟩,
  ⟨.or16, 0, 0x0, 0x0, "OR16"⟩,
  ⟨.xor16, 0, 0x0, 0x0, "XOR16"⟩,
  ⟨.mux16, 0, 0x0, 0x0, "MUX16"⟩,
  ⟨.dmux16, 0, 0x0, 0x0, "DMUX16"⟩,
  ⟨.or8way, 0, 0x0, 0x0, "OR8WAY"⟩,
  ⟨.mux4way, 0, 0x0, 0x0, "MUX4WAY"⟩,
  ⟨.mux4way16, 0, 0x0, 0x0, "MUX4WAY16"⟩,
  ⟨.mux8way, 0, 0x0, 0x0, "MUX8WAY"⟩,
  ⟨.mux8way16, 0, 0x0, 0x0, "MUX8WAY16"⟩,
  ⟨.dmux4way, 0, 0x0, 0x0, "DMUX4WAY"⟩,
  ⟨.dmux4way16, 0, 0x0, 0x0, "DMUX4WAY16"⟩,
  ⟨.dmux8way, 0, 0x0, 0x0, "DMUX8WAY"⟩,
  ⟨.dmux8way16, 0, 0x0, 0x0, "DMUX8WAY16"⟩,
  ⟨.halfadder, 0, 0x0, 0x0, "HALFADDER"⟩,
  ⟨.fulladder, 0, 0x0, 0x0, "FULLADDER"⟩,
  ⟨.add16, 0, 0x0, 0x0, "ADD16"⟩,
  ⟨.inc16, 0, 0x0, 0x0, "INC16"⟩]

/-- opcode_table.json, the rows of DFF, BIT, REGISTER and PC. -/
def sequentialRows : List Row := [
  ⟨.dff, 1, 0x1, 0x1, "DFF.LATCH"⟩,
  ⟨.dff, 1, 0x1, 0x0, "DFF.HOLD"⟩,
  ⟨.bit, 2, 0x3, 0x3, "BIT.LOAD"⟩,
  ⟨.bit, 2, 0x0, 0x0, "BIT.HOLD"⟩,
  ⟨.register, 2, 0x3, 0x3, "REGISTER.LOAD"⟩,
  ⟨.register, 2, 0x0, 0x0, "REGISTER.HOLD"⟩,
  ⟨.pc, 4, 0xc, 0xc, "PC.RESET"⟩,
  ⟨.pc, 4, 0xe, 0xa, "PC.LOAD"⟩,
  ⟨.pc, 4, 0xf, 0x9, "PC.INC"⟩,
  ⟨.pc, 4, 0x0, 0x0, "PC.HOLD"⟩]

/-- opcode_table.json, the rows of the memories. -/
def memoryRows : List Row := [
  ⟨.ram8, 2, 0x3, 0x3, "RAM8.WRITE"⟩,
  ⟨.ram8, 2, 0x0, 0x0, "RAM8.READ"⟩,
  ⟨.ram64, 2, 0x3, 0x3, "RAM64.WRITE"⟩,
  ⟨.ram64, 2, 0x0, 0x0, "RAM64.READ"⟩,
  ⟨.ram512, 2, 0x3, 0x3, "RAM512.WRITE"⟩,
  ⟨.ram512, 2, 0x0, 0x0, "RAM512.READ"⟩,
  ⟨.ram4k, 2, 0x3, 0x3, "RAM4K.WRITE"⟩,
  ⟨.ram4k, 2, 0x0, 0x0, "RAM4K.READ"⟩,
  ⟨.ram16k, 2, 0x3, 0x3, "RAM16K.WRITE"⟩,
  ⟨.ram16k, 2, 0x0, 0x0, "RAM16K.READ"⟩,
  ⟨.screen, 2, 0x3, 0x3, "SCREEN.WRITE"⟩,
  ⟨.screen, 2, 0x0, 0x0, "SCREEN.READ"⟩,
  ⟨.keyboard, 0, 0x0, 0x0, "KEYBOARD.READ"⟩,
  ⟨.memory, 17, 0x1c000, 0x18000, "MEM.RAM.WRITE"⟩,
  ⟨.memory, 17, 0x4000, 0x0, "MEM.RAM.READ"⟩,
  ⟨.memory, 17, 0x1e000, 0x1c000, "MEM.SCREEN.WRITE"⟩,
  ⟨.memory, 17, 0x6000, 0x4000, "MEM.SCREEN.READ"⟩,
  ⟨.memory, 17, 0x1ffff, 0x1e000, "MEM.KBD.WRITE"⟩,
  ⟨.memory, 17, 0x7fff, 0x6000, "MEM.KBD.READ"⟩,
  ⟨.memory, 17, 0x1e000, 0x1e000, "MEM.UNMAPPED.WRITE"⟩,
  ⟨.memory, 17, 0x6000, 0x6000, "MEM.UNMAPPED.READ"⟩]

/-- opcode_table.json; the rows of one component stand in priority order. -/
def opcodeRows : List Row := gateRows ++ sequentialRows ++ memoryRows

/-- R82: "Rows are tried in the order given, and the first row that matches selects the operation." -/
def firstRow (c : Component) (w : Nat) : Option Row :=
  opcodeRows.find? fun r => decide (r.component = c) && (w &&& r.mask == r.value)

/-- The mnemonic of an operation in opcode_table.json. -/
def Instr.mnemonic : Instr → String
  | .nand .. => "NAND"
  | .not .. => "NOT"
  | .and .. => "AND"
  | .or .. => "OR"
  | .xor .. => "XOR"
  | .mux .. => "MUX"
  | .dmux .. => "DMUX"
  | .not16 .. => "NOT16"
  | .and16 .. => "AND16"
  | .or16 .. => "OR16"
  | .xor16 .. => "XOR16"
  | .mux16 .. => "MUX16"
  | .dmux16 .. => "DMUX16"
  | .or8way .. => "OR8WAY"
  | .mux4way .. => "MUX4WAY"
  | .mux4way16 .. => "MUX4WAY16"
  | .mux8way .. => "MUX8WAY"
  | .mux8way16 .. => "MUX8WAY16"
  | .dmux4way .. => "DMUX4WAY"
  | .dmux4way16 .. => "DMUX4WAY16"
  | .dmux8way .. => "DMUX8WAY"
  | .dmux8way16 .. => "DMUX8WAY16"
  | .halfadder .. => "HALFADDER"
  | .fulladder .. => "FULLADDER"
  | .add16 .. => "ADD16"
  | .inc16 .. => "INC16"
  | .dffLatch .. => "DFF.LATCH"
  | .dffHold .. => "DFF.HOLD"
  | .bitLoad .. => "BIT.LOAD"
  | .bitHold .. => "BIT.HOLD"
  | .registerLoad .. => "REGISTER.LOAD"
  | .registerHold .. => "REGISTER.HOLD"
  | .pcReset .. => "PC.RESET"
  | .pcLoad .. => "PC.LOAD"
  | .pcInc .. => "PC.INC"
  | .pcHold .. => "PC.HOLD"
  | .ram8Write .. => "RAM8.WRITE"
  | .ram8Read .. => "RAM8.READ"
  | .ram64Write .. => "RAM64.WRITE"
  | .ram64Read .. => "RAM64.READ"
  | .ram512Write .. => "RAM512.WRITE"
  | .ram512Read .. => "RAM512.READ"
  | .ram4kWrite .. => "RAM4K.WRITE"
  | .ram4kRead .. => "RAM4K.READ"
  | .ram16kWrite .. => "RAM16K.WRITE"
  | .ram16kRead .. => "RAM16K.READ"
  | .screenWrite .. => "SCREEN.WRITE"
  | .screenRead .. => "SCREEN.READ"
  | .keyboardRead .. => "KEYBOARD.READ"
  | .memRamWrite .. => "MEM.RAM.WRITE"
  | .memRamRead .. => "MEM.RAM.READ"
  | .memScreenWrite .. => "MEM.SCREEN.WRITE"
  | .memScreenRead .. => "MEM.SCREEN.READ"
  | .memKbdWrite .. => "MEM.KBD.WRITE"
  | .memKbdRead .. => "MEM.KBD.READ"
  | .memUnmappedWrite .. => "MEM.UNMAPPED.WRITE"
  | .memUnmappedRead .. => "MEM.UNMAPPED.READ"

/-! ### Selection of the operation by the port values -/

/-- A signal port's value. -/
def sigOf (n : Nat) : Sig := decide (n % 2 = 1)

/-- A word port's value. -/
def wordOf (n : Nat) : Word := BitVec.ofNat 16 n

/-- R82, R214: the MEMORY row, by the region of the address and then by `clock load`. -/
def selectMemory (cfg : Config) (i : Inst) (inp : Word) (address : BitVec 15) (load clock : Sig) : Instr :=
  match cfg.region address, clock && load with
  | .ram, true => .memRamWrite i inp address
  | .ram, false => .memRamRead i inp address load clock
  | .screen, true => .memScreenWrite i inp address
  | .screen, false => .memScreenRead i inp address load clock
  | .keyboard, true => .memKbdWrite i inp address
  | .keyboard, false => .memKbdRead i inp address load clock
  | .unmapped, true => .memUnmappedWrite i inp address
  | .unmapped, false => .memUnmappedRead i inp address load clock

/-- R82: the PC row, by `clock reset load inc`, in priority order. -/
def selectPc (i : Inst) (inp : Word) (reset load inc clock : Sig) : Instr :=
  if clock && reset then .pcReset i inp load inc
  else if clock && load then .pcLoad i inp inc
  else if clock && inc then .pcInc i inp
  else .pcHold i inp reset load inc clock

/-- The operation an evaluation selects: the component, the instance and the values of the input ports in the order
of R81. `none` only when the number of values is not the component's. -/
def select (cfg : Config) (i : Inst) (c : Component) (values : List Nat) : Option Instr :=
  match c with
  | .nand => match values with
    | [a, b] => some (.nand (sigOf a) (sigOf b))
    | _ => none
  | .not => match values with
    | [x] => some (.not (sigOf x))
    | _ => none
  | .and => match values with
    | [a, b] => some (.and (sigOf a) (sigOf b))
    | _ => none
  | .or => match values with
    | [a, b] => some (.or (sigOf a) (sigOf b))
    | _ => none
  | .xor => match values with
    | [a, b] => some (.xor (sigOf a) (sigOf b))
    | _ => none
  | .mux => match values with
    | [a, b, sel] => some (.mux (sigOf a) (sigOf b) (sigOf sel))
    | _ => none
  | .dmux => match values with
    | [x, sel] => some (.dmux (sigOf x) (sigOf sel))
    | _ => none
  | .not16 => match values with
    | [x] => some (.not16 (wordOf x))
    | _ => none
  | .and16 => match values with
    | [a, b] => some (.and16 (wordOf a) (wordOf b))
    | _ => none
  | .or16 => match values with
    | [a, b] => some (.or16 (wordOf a) (wordOf b))
    | _ => none
  | .xor16 => match values with
    | [a, b] => some (.xor16 (wordOf a) (wordOf b))
    | _ => none
  | .mux16 => match values with
    | [a, b, sel] => some (.mux16 (wordOf a) (wordOf b) (sigOf sel))
    | _ => none
  | .dmux16 => match values with
    | [x, sel] => some (.dmux16 (wordOf x) (sigOf sel))
    | _ => none
  | .or8way => match values with
    | [x] => some (.or8way (BitVec.ofNat 8 x))
    | _ => none
  | .mux4way => match values with
    | [a, b, c, d, sel] => some (.mux4way (sigOf a) (sigOf b) (sigOf c) (sigOf d) (BitVec.ofNat 2 sel))
    | _ => none
  | .mux4way16 => match values with
    | [a, b, c, d, sel] => some (.mux4way16 (wordOf a) (wordOf b) (wordOf c) (wordOf d) (BitVec.ofNat 2 sel))
    | _ => none
  | .mux8way => match values with
    | [a, b, c, d, e, f, g, h, sel] =>
      some (.mux8way (sigOf a) (sigOf b) (sigOf c) (sigOf d) (sigOf e) (sigOf f) (sigOf g) (sigOf h)
        (BitVec.ofNat 3 sel))
    | _ => none
  | .mux8way16 => match values with
    | [a, b, c, d, e, f, g, h, sel] =>
      some (.mux8way16 (wordOf a) (wordOf b) (wordOf c) (wordOf d) (wordOf e) (wordOf f) (wordOf g) (wordOf h)
        (BitVec.ofNat 3 sel))
    | _ => none
  | .dmux4way => match values with
    | [x, sel] => some (.dmux4way (sigOf x) (BitVec.ofNat 2 sel))
    | _ => none
  | .dmux4way16 => match values with
    | [x, sel] => some (.dmux4way16 (wordOf x) (BitVec.ofNat 2 sel))
    | _ => none
  | .dmux8way => match values with
    | [x, sel] => some (.dmux8way (sigOf x) (BitVec.ofNat 3 sel))
    | _ => none
  | .dmux8way16 => match values with
    | [x, sel] => some (.dmux8way16 (wordOf x) (BitVec.ofNat 3 sel))
    | _ => none
  | .halfadder => match values with
    | [a, b] => some (.halfadder (sigOf a) (sigOf b))
    | _ => none
  | .fulladder => match values with
    | [a, b, c] => some (.fulladder (sigOf a) (sigOf b) (sigOf c))
    | _ => none
  | .add16 => match values with
    | [a, b] => some (.add16 (wordOf a) (wordOf b))
    | _ => none
  | .inc16 => match values with
    | [x] => some (.inc16 (wordOf x))
    | _ => none
  | .dff => match values with
    | [x, c] => some (if sigOf c then .dffLatch i (sigOf x) else .dffHold i (sigOf x))
    | _ => none
  | .bit => match values with
    | [x, load, clock] =>
      some (if sigOf clock && sigOf load then .bitLoad i (sigOf x) else .bitHold i (sigOf x) (sigOf load) (sigOf clock))
    | _ => none
  | .register => match values with
    | [x, load, clock] =>
      some (if sigOf clock && sigOf load then .registerLoad i (wordOf x)
        else .registerHold i (wordOf x) (sigOf load) (sigOf clock))
    | _ => none
  | .pc => match values with
    | [x, reset, load, inc, clock] => some (selectPc i (wordOf x) (sigOf reset) (sigOf load) (sigOf inc) (sigOf clock))
    | _ => none
  | .ram8 => match values with
    | [x, address, load, clock] =>
      some (if sigOf clock && sigOf load then .ram8Write i (wordOf x) (BitVec.ofNat 3 address)
        else .ram8Read i (wordOf x) (BitVec.ofNat 3 address) (sigOf load) (sigOf clock))
    | _ => none
  | .ram64 => match values with
    | [x, address, load, clock] =>
      some (if sigOf clock && sigOf load then .ram64Write i (wordOf x) (BitVec.ofNat 6 address)
        else .ram64Read i (wordOf x) (BitVec.ofNat 6 address) (sigOf load) (sigOf clock))
    | _ => none
  | .ram512 => match values with
    | [x, address, load, clock] =>
      some (if sigOf clock && sigOf load then .ram512Write i (wordOf x) (BitVec.ofNat 9 address)
        else .ram512Read i (wordOf x) (BitVec.ofNat 9 address) (sigOf load) (sigOf clock))
    | _ => none
  | .ram4k => match values with
    | [x, address, load, clock] =>
      some (if sigOf clock && sigOf load then .ram4kWrite i (wordOf x) (BitVec.ofNat 12 address)
        else .ram4kRead i (wordOf x) (BitVec.ofNat 12 address) (sigOf load) (sigOf clock))
    | _ => none
  | .ram16k => match values with
    | [x, address, load, clock] =>
      some (if sigOf clock && sigOf load then .ram16kWrite i (wordOf x) (BitVec.ofNat 14 address)
        else .ram16kRead i (wordOf x) (BitVec.ofNat 14 address) (sigOf load) (sigOf clock))
    | _ => none
  | .screen => match values with
    | [x, address, load, clock] =>
      some (if sigOf clock && sigOf load then .screenWrite i (wordOf x) (BitVec.ofNat 14 address)
        else .screenRead i (wordOf x) (BitVec.ofNat 14 address) (sigOf load) (sigOf clock))
    | _ => none
  | .keyboard => match values with
    | [] => some (.keyboardRead i)
    | _ => none
  | .memory => match values with
    | [x, address, load, clock] =>
      some (selectMemory cfg i (wordOf x) (BitVec.ofNat 15 address) (sigOf load) (sigOf clock))
    | _ => none

/-! ### The frame -/

/-- One evaluation as a number of 176 bits (log 1): bits 23..0 the control word of R82, right-aligned, as the opcode
table numbers it; bits 31..24 the component's number; bits 39..32 the instance; from bit 40 on the other inputs in
the order of R81, each in exactly its width, the first lowest. Every other bit is 0. -/
abbrev Frame := BitVec 176

/-- The components in the order of R81, which numbers them from 0 in a frame. -/
def Component.all : List Component :=
  [.nand, .not, .and, .or, .xor, .mux, .dmux, .not16, .and16, .or16, .xor16, .mux16, .dmux16, .or8way,
    .mux4way, .mux4way16, .mux8way, .mux8way16, .dmux4way, .dmux4way16, .dmux8way, .dmux8way16,
    .halfadder, .fulladder, .add16, .inc16]
    ++ [.dff, .bit, .register, .pc, .ram8, .ram64, .ram512, .ram4k, .ram16k, .screen, .keyboard, .memory]

/-- The component's number in a frame. -/
def Component.code (c : Component) : Nat := Component.all.idxOf c

/-- The component with this number. -/
def Component.ofCode (n : Nat) : Option Component := Component.all[n]?

/-- Fields of given widths side by side, the first lowest. -/
def packFields : List Nat → List Nat → Nat
  | [], _ => 0
  | _ :: _, [] => 0
  | w :: ws, v :: vs => v % 2 ^ w + 2 ^ w * packFields ws vs

/-- The fields of given widths of a number, the first lowest, and what is left above them. -/
def unpackFields : List Nat → Nat → List Nat × Nat
  | [], n => ([], n)
  | w :: ws, n => (n % 2 ^ w :: (unpackFields ws (n / 2 ^ w)).1, (unpackFields ws (n / 2 ^ w)).2)

/-- The frame's number. -/
def frameNumber (control code inst data : Nat) : Nat :=
  control + 2 ^ 24 * (code + 2 ^ 8 * (inst + 2 ^ 8 * data))

/-- A frame's control and data fields, put in the order of R81: the data, then the control inputs; PC's control
word lists its inputs in the opposite order to R81. -/
def portOrder (c : Component) (control data : List Nat) : List Nat :=
  match c with
  | .pc => data ++ (match control with
    | [inc, load, reset, clock] => [reset, load, inc, clock]
    | other => other)
  | _ => data ++ control

/-- Why a frame is refused. -/
inductive DecodeError
  /-- no component has this number -/
  | unknownComponent (code : Nat)
  /-- a bit outside the component's fields is set -/
  | reservedBits (c : Component)
  /-- a SCREEN address does not fit the port -/
  | outOfRange (c : Component)
  deriving DecidableEq, Repr

/-- The frame's operation, or why it has none. Total on any 176 bits. -/
def decode (cfg : Config) (f : Frame) : Except DecodeError Instr :=
  let n := f.toNat
  match Component.ofCode (n / 2 ^ 24 % 2 ^ 8) with
  | none => .error (.unknownComponent (n / 2 ^ 24 % 2 ^ 8))
  | some c =>
    let inst := n / 2 ^ 32 % 2 ^ 8
    let control := unpackFields c.controlWidths (n % 2 ^ 24)
    let data := unpackFields c.dataWidths (n / 2 ^ 40)
    if control.2 ≠ 0 ∨ data.2 ≠ 0 ∨ (!c.sequential && decide (c ≠ .keyboard) && decide (inst ≠ 0)) = true then
      .error (.reservedBits c)
    else
      match select cfg (BitVec.ofNat 8 inst) c (portOrder c control.1 data.1) with
      | none => .error (.reservedBits c)
      | some i => if i.wellFormed cfg then .ok i else .error (.outOfRange c)

/-! ### The encoder -/

/-- The component an operation evaluates. -/
def Instr.component : Instr → Component
  | .nand .. => .nand
  | .not .. => .not
  | .and .. => .and
  | .or .. => .or
  | .xor .. => .xor
  | .mux .. => .mux
  | .dmux .. => .dmux
  | .not16 .. => .not16
  | .and16 .. => .and16
  | .or16 .. => .or16
  | .xor16 .. => .xor16
  | .mux16 .. => .mux16
  | .dmux16 .. => .dmux16
  | .or8way .. => .or8way
  | .mux4way .. => .mux4way
  | .mux4way16 .. => .mux4way16
  | .mux8way .. => .mux8way
  | .mux8way16 .. => .mux8way16
  | .dmux4way .. => .dmux4way
  | .dmux4way16 .. => .dmux4way16
  | .dmux8way .. => .dmux8way
  | .dmux8way16 .. => .dmux8way16
  | .halfadder .. => .halfadder
  | .fulladder .. => .fulladder
  | .add16 .. => .add16
  | .inc16 .. => .inc16
  | .dffLatch .. => .dff
  | .dffHold .. => .dff
  | .bitLoad .. => .bit
  | .bitHold .. => .bit
  | .registerLoad .. => .register
  | .registerHold .. => .register
  | .pcReset .. => .pc
  | .pcLoad .. => .pc
  | .pcInc .. => .pc
  | .pcHold .. => .pc
  | .ram8Write .. => .ram8
  | .ram8Read .. => .ram8
  | .ram64Write .. => .ram64
  | .ram64Read .. => .ram64
  | .ram512Write .. => .ram512
  | .ram512Read .. => .ram512
  | .ram4kWrite .. => .ram4k
  | .ram4kRead .. => .ram4k
  | .ram16kWrite .. => .ram16k
  | .ram16kRead .. => .ram16k
  | .screenWrite .. => .screen
  | .screenRead .. => .screen
  | .keyboardRead .. => .keyboard
  | .memRamWrite .. => .memory
  | .memRamRead .. => .memory
  | .memScreenWrite .. => .memory
  | .memScreenRead .. => .memory
  | .memKbdWrite .. => .memory
  | .memKbdRead .. => .memory
  | .memUnmappedWrite .. => .memory
  | .memUnmappedRead .. => .memory

/-- The instance number in an operation's frame; 0 for a gate, which has no instances. -/
def Instr.inst : Instr → Inst
  | .nand .. => 0
  | .not .. => 0
  | .and .. => 0
  | .or .. => 0
  | .xor .. => 0
  | .mux .. => 0
  | .dmux .. => 0
  | .not16 .. => 0
  | .and16 .. => 0
  | .or16 .. => 0
  | .xor16 .. => 0
  | .mux16 .. => 0
  | .dmux16 .. => 0
  | .or8way .. => 0
  | .mux4way .. => 0
  | .mux4way16 .. => 0
  | .mux8way .. => 0
  | .mux8way16 .. => 0
  | .dmux4way .. => 0
  | .dmux4way16 .. => 0
  | .dmux8way .. => 0
  | .dmux8way16 .. => 0
  | .halfadder .. => 0
  | .fulladder .. => 0
  | .add16 .. => 0
  | .inc16 .. => 0
  | .dffLatch i .. => i
  | .dffHold i .. => i
  | .bitLoad i .. => i
  | .bitHold i .. => i
  | .registerLoad i .. => i
  | .registerHold i .. => i
  | .pcReset i .. => i
  | .pcLoad i .. => i
  | .pcInc i .. => i
  | .pcHold i .. => i
  | .ram8Write i .. => i
  | .ram8Read i .. => i
  | .ram64Write i .. => i
  | .ram64Read i .. => i
  | .ram512Write i .. => i
  | .ram512Read i .. => i
  | .ram4kWrite i .. => i
  | .ram4kRead i .. => i
  | .ram16kWrite i .. => i
  | .ram16kRead i .. => i
  | .screenWrite i .. => i
  | .screenRead i .. => i
  | .keyboardRead i => i
  | .memRamWrite i .. => i
  | .memRamRead i .. => i
  | .memScreenWrite i .. => i
  | .memScreenRead i .. => i
  | .memKbdWrite i .. => i
  | .memKbdRead i .. => i
  | .memUnmappedWrite i .. => i
  | .memUnmappedRead i .. => i

/-- The control word's fields (R82), least significant first, as in `Component.controlWidths`. -/
def Instr.control : Instr → List Nat
  | .nand _ _ => []
  | .not _ => []
  | .and _ _ => []
  | .or _ _ => []
  | .xor _ _ => []
  | .mux _ _ _ => []
  | .dmux _ _ => []
  | .not16 _ => []
  | .and16 _ _ => []
  | .or16 _ _ => []
  | .xor16 _ _ => []
  | .mux16 _ _ _ => []
  | .dmux16 _ _ => []
  | .or8way _ => []
  | .mux4way _ _ _ _ _ => []
  | .mux4way16 _ _ _ _ _ => []
  | .mux8way _ _ _ _ _ _ _ _ _ => []
  | .mux8way16 _ _ _ _ _ _ _ _ _ => []
  | .dmux4way _ _ => []
  | .dmux4way16 _ _ => []
  | .dmux8way _ _ => []
  | .dmux8way16 _ _ => []
  | .halfadder _ _ => []
  | .fulladder _ _ _ => []
  | .add16 _ _ => []
  | .inc16 _ => []
  | .dffLatch _ _ => [1]
  | .dffHold _ _ => [0]
  | .bitLoad _ _ => [1, 1]
  | .bitHold _ _ load clock => [load.toNat, clock.toNat]
  | .registerLoad _ _ => [1, 1]
  | .registerHold _ _ load clock => [load.toNat, clock.toNat]
  | .pcReset _ _ load inc => [inc.toNat, load.toNat, 1, 1]
  | .pcLoad _ _ inc => [inc.toNat, 1, 0, 1]
  | .pcInc _ _ => [1, 0, 0, 1]
  | .pcHold _ _ reset load inc clock => [inc.toNat, load.toNat, reset.toNat, clock.toNat]
  | .ram8Write _ _ _ => [1, 1]
  | .ram8Read _ _ _ load clock => [load.toNat, clock.toNat]
  | .ram64Write _ _ _ => [1, 1]
  | .ram64Read _ _ _ load clock => [load.toNat, clock.toNat]
  | .ram512Write _ _ _ => [1, 1]
  | .ram512Read _ _ _ load clock => [load.toNat, clock.toNat]
  | .ram4kWrite _ _ _ => [1, 1]
  | .ram4kRead _ _ _ load clock => [load.toNat, clock.toNat]
  | .ram16kWrite _ _ _ => [1, 1]
  | .ram16kRead _ _ _ load clock => [load.toNat, clock.toNat]
  | .screenWrite _ _ _ => [1, 1]
  | .screenRead _ _ _ load clock => [load.toNat, clock.toNat]
  | .keyboardRead _ => []
  | .memRamWrite _ _ address => [address.toNat, 1, 1]
  | .memRamRead _ _ address load clock => [address.toNat, load.toNat, clock.toNat]
  | .memScreenWrite _ _ address => [address.toNat, 1, 1]
  | .memScreenRead _ _ address load clock => [address.toNat, load.toNat, clock.toNat]
  | .memKbdWrite _ _ address => [address.toNat, 1, 1]
  | .memKbdRead _ _ address load clock => [address.toNat, load.toNat, clock.toNat]
  | .memUnmappedWrite _ _ address => [address.toNat, 1, 1]
  | .memUnmappedRead _ _ address load clock => [address.toNat, load.toNat, clock.toNat]

/-- The values of the other inputs, in the order of R81. -/
def Instr.data : Instr → List Nat
  | .nand a b => [a.toNat, b.toNat]
  | .not inp => [inp.toNat]
  | .and a b => [a.toNat, b.toNat]
  | .or a b => [a.toNat, b.toNat]
  | .xor a b => [a.toNat, b.toNat]
  | .mux a b sel => [a.toNat, b.toNat, sel.toNat]
  | .dmux inp sel => [inp.toNat, sel.toNat]
  | .not16 inp => [inp.toNat]
  | .and16 a b => [a.toNat, b.toNat]
  | .or16 a b => [a.toNat, b.toNat]
  | .xor16 a b => [a.toNat, b.toNat]
  | .mux16 a b sel => [a.toNat, b.toNat, sel.toNat]
  | .dmux16 inp sel => [inp.toNat, sel.toNat]
  | .or8way inp => [inp.toNat]
  | .mux4way a b c d sel => [a.toNat, b.toNat, c.toNat, d.toNat, sel.toNat]
  | .mux4way16 a b c d sel => [a.toNat, b.toNat, c.toNat, d.toNat, sel.toNat]
  | .mux8way a b c d e f g h sel => [a.toNat, b.toNat, c.toNat, d.toNat, e.toNat, f.toNat, g.toNat, h.toNat, sel.toNat]
  | .mux8way16 a b c d e f g h sel => [a.toNat, b.toNat, c.toNat, d.toNat, e.toNat, f.toNat, g.toNat, h.toNat, sel.toNat]
  | .dmux4way inp sel => [inp.toNat, sel.toNat]
  | .dmux4way16 inp sel => [inp.toNat, sel.toNat]
  | .dmux8way inp sel => [inp.toNat, sel.toNat]
  | .dmux8way16 inp sel => [inp.toNat, sel.toNat]
  | .halfadder a b => [a.toNat, b.toNat]
  | .fulladder a b c => [a.toNat, b.toNat, c.toNat]
  | .add16 a b => [a.toNat, b.toNat]
  | .inc16 inp => [inp.toNat]
  | .dffLatch _ inp => [inp.toNat]
  | .dffHold _ inp => [inp.toNat]
  | .bitLoad _ inp => [inp.toNat]
  | .bitHold _ inp _ _ => [inp.toNat]
  | .registerLoad _ inp => [inp.toNat]
  | .registerHold _ inp _ _ => [inp.toNat]
  | .pcReset _ inp _ _ => [inp.toNat]
  | .pcLoad _ inp _ => [inp.toNat]
  | .pcInc _ inp => [inp.toNat]
  | .pcHold _ inp _ _ _ _ => [inp.toNat]
  | .ram8Write _ inp address => [inp.toNat, address.toNat]
  | .ram8Read _ inp address _ _ => [inp.toNat, address.toNat]
  | .ram64Write _ inp address => [inp.toNat, address.toNat]
  | .ram64Read _ inp address _ _ => [inp.toNat, address.toNat]
  | .ram512Write _ inp address => [inp.toNat, address.toNat]
  | .ram512Read _ inp address _ _ => [inp.toNat, address.toNat]
  | .ram4kWrite _ inp address => [inp.toNat, address.toNat]
  | .ram4kRead _ inp address _ _ => [inp.toNat, address.toNat]
  | .ram16kWrite _ inp address => [inp.toNat, address.toNat]
  | .ram16kRead _ inp address _ _ => [inp.toNat, address.toNat]
  | .screenWrite _ inp address => [inp.toNat, address.toNat]
  | .screenRead _ inp address _ _ => [inp.toNat, address.toNat]
  | .keyboardRead _ => []
  | .memRamWrite _ inp _ => [inp.toNat]
  | .memRamRead _ inp _ _ _ => [inp.toNat]
  | .memScreenWrite _ inp _ => [inp.toNat]
  | .memScreenRead _ inp _ _ _ => [inp.toNat]
  | .memKbdWrite _ inp _ => [inp.toNat]
  | .memKbdRead _ inp _ _ _ => [inp.toNat]
  | .memUnmappedWrite _ inp _ => [inp.toNat]
  | .memUnmappedRead _ inp _ _ _ => [inp.toNat]

/-- The control word as the number the opcode table gives it. -/
def Instr.controlWord (i : Instr) : Nat := packFields i.component.controlWidths i.control

/-- The values of all input ports, in the order of R81. -/
def Instr.values (i : Instr) : List Nat := portOrder i.component i.control i.data

/-- The frame of an operation: "its component plus its control word plus its data inputs" (R91). -/
def encode (i : Instr) : Frame :=
  BitVec.ofNat 176
    (frameNumber i.controlWord i.component.code (uval i.inst) (packFields i.component.dataWidths i.data))

/-! ### The opcode table's words -/

/-- The component that a bare table word is taken to mean. The table gives a row's control word only, which does not
name the component (R80): a word of three bytes is MEMORY's, an empty word NAND's, and a word of one byte belongs to
the shortest control word it fits (DFF, then REGISTER, then PC). The host's interface alone uses this (log 18). -/
def tableComponent (nbits w : Nat) : Component :=
  if nbits = 0 then .nand
  else if 8 < nbits then .memory
  else if w < 2 then .dff
  else if w < 4 then .register
  else .pc

/-- A bare table word as a frame: its bits as the control word, every other input 0. -/
def tableFrame (nbits w : Nat) : Frame :=
  BitVec.ofNat 176 (frameNumber (w % 2 ^ 24) (tableComponent nbits w).code 0 0)

/-- The operation the decoder reads from a bare table word, under the default parameters. -/
def decodeTableWord (nbits w : Nat) : Option Instr :=
  match decode Config.standard (tableFrame nbits w) with
  | .ok i => some i
  | .error _ => none

end Sys2Proof
end

