-- ==== Sys2Proof/Machine/State.lean ====
section
/-! DEFINITION. The state of the machine (10_state.md R20 to R32), the reasons for a fault (60_exceptions.md R301) and
for a refusal, the inputs the environment and the host supply (R311), and the state right after power-on (R400). -/

namespace Sys2Proof.Machine

/-- A word- or bit-store: cells (key, value) with rising keys, listing no cell that holds what an unlisted cell
reads as (Machine/Ops.lean, `Memory.wf`). The unit is the block's own, a word or a bit: it has no bytes (R52, log 13). -/
abbrev Memory (α : Type) := List (Nat × α)

/-- The position of the clock (R403): between cycles, in a low phase, or in a high phase. -/
inductive Phase
  | between | low | high
  deriving DecidableEq, Repr

/-- The fault reasons of R301. Each is safe: a faulting evaluation commits nothing and the run ends (R302). -/
inductive Fault
  /-- `F_SIGNAL`, code 1: an untyped input holds a digit other than 0 and 1. Raised at the boundary (R87). Safe. -/
  | signal (component : Component) (port : PortName)
  /-- `F_WIDTH`, code 2: an untyped input has another width than its port. Raised at the boundary (R87). Safe. -/
  | width (component : Component) (port : PortName) (given : Nat)
  /-- `F_UNMAPPED`, code 3: MEM.UNMAPPED.WRITE, and MEM.UNMAPPED.READ under `UNMAPPED_READ = fault` (R221, R222). Safe. -/
  | unmapped (address : BitVec 15)
  deriving DecidableEq, Repr

/-- The reasons for which the model gives a step no meaning. -/
inductive Refusal
  /-- an operation of the opcode table that has no meaning yet. Raised by `exec`. Safe. -/
  | notModelled (mnemonic : String)
  /-- `REFUSE_MULTI_EVAL`, code 4 (R301, R405): the environment evaluates one sequential instance twice in a phase.
  Raised by the step. Safe. -/
  | multiEval (component : Component) (i : Inst) (phase : Phase)
  /-- a frame that encodes no operation. Raised by the step. Safe. -/
  | badFrame (e : DecodeError)
  /-- an untyped evaluation does not list the component's ports (R81), in their order (log 16). Raised by the step. Safe. -/
  | wrongPorts (component : Component)
  /-- a host move during a cycle (R311, I12). Raised by the step. Safe. -/
  | hostDuringCycle
  /-- a host write of state other than a keyboard value (R311, I12). Raised by the step. Safe. -/
  | hostWrite
  /-- a host read of a word that the array does not have (R50). Raised by the step. Safe. -/
  | hostNoElement
  /-- a step after the host has stopped the run (R411). Raised by the step. Safe. -/
  | runEnded
  deriving DecidableEq, Repr

/-- A stored word of the block: `st.r`, `st.pc`, `st.m[a]`, `st.s[a]`, `st.ram[a]` or `st.kbd` of one instance (R32).
An array shorter than 2^15 words uses the low addresses only; a single word is at address 0. -/
structure WordRef where
  bank : WordBank
  i : Inst
  addr : BitVec 15
  deriving DecidableEq, Repr

/-- A stored bit of the block: `st.q` of one DFF or BIT (R32). -/
structure BitRef where
  bank : BitBank
  i : Inst
  deriving DecidableEq, Repr

/-- The key of a word's cell. -/
def WordRef.key (e : WordRef) : Nat := 32768 * e.i.toNat + e.addr.toNat

/-- The key of a bit's cell. -/
def BitRef.key (e : BitRef) : Nat := e.i.toNat

/-- The moves of the host (R311, D21). -/
inductive HostMove
  /-- inspect a stored word -/
  | readWord (e : WordRef)
  /-- inspect a stored bit -/
  | readBit (e : BitRef)
  /-- write a stored word: legal for a keyboard value only -/
  | writeWord (e : WordRef) (v : Word)
  /-- write a stored bit: never legal -/
  | writeBit (e : BitRef) (v : Sig)
  /-- end the run -/
  | stop
  deriving DecidableEq, Repr

/-- An untyped port value: the digits of a word, most significant first (R8); a signal is one digit. -/
abbrev RawValue := List Nat

/-- What the environment or the host does next. -/
inductive Input
  /-- one evaluation, given as a frame -/
  | frame (f : Frame)
  /-- one evaluation, given by untyped port values (R87) -/
  | ports (c : Component) (i : Inst) (values : List (PortName × RawValue))
  /-- the clock moves on: between cycles to low, low to high, high to between cycles (R403) -/
  | advance
  /-- a move of the host -/
  | host (m : HostMove)
  deriving DecidableEq, Repr

/-- Everything the block stores, one field per element of R32, for all instances of the component. -/
structure Store where
  dff : Memory Sig
  bit : Memory Sig
  register : Memory Word
  pc : Memory Word
  ram8 : Memory Word
  ram64 : Memory Word
  ram512 : Memory Word
  ram4k : Memory Word
  ram16k : Memory Word
  screen : Memory Word
  kbd : Memory Word
  memRam : Memory Word
  memScreen : Memory Word
  memKbd : Memory Word
  deriving DecidableEq, Repr

/-- The environment's side: the inputs still to come and where the clock stands. Not state of the block (R29). -/
structure Env where
  /-- the inputs to come, in order -/
  schedule : List Input
  phase : Phase
  /-- the number of the latest cycle that has begun; cycle t is the t-th low/high pair, from 1 (R403) -/
  cycle : Nat
  /-- the sequential instances evaluated in this phase (R405) -/
  evaluated : List (Component × Inst)
  /-- what the host's latest read showed (R311) -/
  inspected : Option PortValue
  /-- the host has stopped the run (R311, R411) -/
  stopped : Bool
  deriving DecidableEq, Repr

/-- The state of the machine. -/
structure State where
  /-- the parameters (R5); no step changes them -/
  config : Config
  /-- the block's stored bits and words -/
  store : Store
  /-- how many draws (R10) have been taken; the model's own field (log 10) -/
  draws : Nat
  /-- the output ports driven by the latest evaluation, in the order of R81; none after a fault (R302) -/
  outputs : List (PortName × PortValue)
  /-- the sticky fault mark (R302) -/
  faultMark : Option Fault
  env : Env
  deriving DecidableEq, Repr

/-- No cell listed: every element at its power-on value. -/
def Store.empty : Store where
  dff := []
  bit := []
  register := []
  pc := []
  ram8 := []
  ram64 := []
  ram512 := []
  ram4k := []
  ram16k := []
  screen := []
  kbd := []
  memRam := []
  memScreen := []
  memKbd := []

/-- Before cycle 1 (R403, R404), with no input given yet. -/
def Env.initial : Env where
  schedule := []
  phase := .between
  cycle := 0
  evaluated := []
  inspected := none
  stopped := false

/-- R400, R404: the machine right after it is built, under given parameters. -/
def State.initial (cfg : Config) : State where
  config := cfg
  store := Store.empty
  draws := 0
  outputs := []
  faultMark := none
  env := Env.initial

/-- R400: power-on under the default parameters of R5. -/
def State.reset : State := State.initial Config.standard

end Sys2Proof.Machine
end

