-- ==== Sys2Proof/Machine/Ops.lean ====
section
/-! DEFINITION. The named operations on stores and state: reading and committing an element, driving outputs,
taking a draw, and raising a fault (60_exceptions.md R302). -/

namespace Sys2Proof.Machine

/-- What an evaluation answers. -/
abbrev Result := Host.Outcome State Fault Refusal

/-! ### Stores -/

/-- The value of cell `k`; an unlisted cell holds `d`. -/
def Memory.get {α : Type} (d : α) (k : Nat) : Memory α → α
  | [] => d
  | c :: m => if c.1 = k then c.2 else Memory.get d k m

/-- The store without cell `k`. -/
def Memory.erase {α : Type} (k : Nat) (m : Memory α) : Memory α := m.filter fun c => c.1 != k

/-- The store with a new cell `k`, before the first cell of a higher key. -/
def Memory.insert {α : Type} (k : Nat) (v : α) : Memory α → Memory α
  | [] => [(k, v)]
  | c :: m => if k < c.1 then (k, v) :: c :: m else c :: Memory.insert k v m

/-- Set cell `k`, whose unlisted value is `d`, keeping the canonical form. -/
def Memory.put {α : Type} [DecidableEq α] (d : α) (k : Nat) (v : α) (m : Memory α) : Memory α :=
  if v = d then Memory.erase k m else Memory.insert k v (Memory.erase k m)

/-- The canonical form: keys rise strictly, and no cell holds what an unlisted cell reads as. -/
abbrev Memory.wf {α : Type} (d : Nat → α) (m : Memory α) : Prop :=
  m.Pairwise (fun a b => a.1 < b.1) ∧ ∀ c ∈ m, c.2 ≠ d c.1

/-- The cells of one word-storing element. -/
def Store.words (t : Store) : WordBank → Memory Word
  | .register => t.register
  | .pc => t.pc
  | .ram8 => t.ram8
  | .ram64 => t.ram64
  | .ram512 => t.ram512
  | .ram4k => t.ram4k
  | .ram16k => t.ram16k
  | .screen => t.screen
  | .kbd => t.kbd
  | .memRam => t.memRam
  | .memScreen => t.memScreen
  | .memKbd => t.memKbd

/-- Replace the cells of one word-storing element. -/
def Store.setWords (t : Store) (b : WordBank) (m : Memory Word) : Store :=
  match b with
  | .register => { t with register := m }
  | .pc => { t with pc := m }
  | .ram8 => { t with ram8 := m }
  | .ram64 => { t with ram64 := m }
  | .ram512 => { t with ram512 := m }
  | .ram4k => { t with ram4k := m }
  | .ram16k => { t with ram16k := m }
  | .screen => { t with screen := m }
  | .kbd => { t with kbd := m }
  | .memRam => { t with memRam := m }
  | .memScreen => { t with memScreen := m }
  | .memKbd => { t with memKbd := m }

/-- The cells of one bit-storing element. -/
def Store.bits (t : Store) : BitBank → Memory Sig
  | .dff => t.dff
  | .bit => t.bit

/-- Replace the cells of one bit-storing element. -/
def Store.setBits (t : Store) (b : BitBank) (m : Memory Sig) : Store :=
  match b with
  | .dff => { t with dff := m }
  | .bit => { t with bit := m }

/-- How many words an instance of the element holds (R25 to R28, R50). -/
def bankSize (cfg : Config) : WordBank → Nat
  | .register | .pc | .kbd | .memKbd => 1
  | .ram8 => 8
  | .ram64 => 64
  | .ram512 => 512
  | .ram4k => 4096
  | .ram16k | .memRam => 16384
  | .screen | .memScreen => cfg.screenWords

/-- The element exists: its address is within the array. -/
def WordRef.inRange (cfg : Config) (e : WordRef) : Bool := decide (e.addr.toNat < bankSize cfg e.bank)

/-- R400: what a word that nothing has written holds. A keyboard value is `KBD_INIT` under every parameter. -/
def powerOnWord (cfg : Config) (b : WordBank) (key : Nat) : Word :=
  match b with
  | .kbd | .memKbd => kbdInit
  | .register | .pc | .ram8 | .ram64 | .ram512 | .ram4k | .ram16k | .screen | .memRam | .memScreen =>
    match cfg.powerOn with
    | .zero => 0x0000#16
    | .draw => Config.powerOnWordDraw b key

/-- R400: what a bit that nothing has written holds. -/
def powerOnBit (cfg : Config) (b : BitBank) (key : Nat) : Sig :=
  match cfg.powerOn with
  | .zero => false
  | .draw => Config.powerOnBitDraw b key

/-- R10 `MemRead`, `st.X`: the committed value of a word. -/
def State.readWord (s : State) (e : WordRef) : Word :=
  Memory.get (powerOnWord s.config e.bank e.key) e.key (s.store.words e.bank)

/-- R10 `st.X`: the committed value of a bit. -/
def State.readBit (s : State) (e : BitRef) : Sig :=
  Memory.get (powerOnBit s.config e.bank e.key) e.key (s.store.bits e.bank)

/-- R10 `MemWrite`, `st.X <- v`: commit a word. -/
def State.commitWord (s : State) (e : WordRef) (v : Word) : State :=
  let cells := Memory.put (powerOnWord s.config e.bank e.key) e.key v (s.store.words e.bank)
  { s with store := s.store.setWords e.bank cells }

/-- R10 `st.X <- v`: commit a bit. -/
def State.commitBit (s : State) (e : BitRef) (v : Sig) : State :=
  let cells := Memory.put (powerOnBit s.config e.bank e.key) e.key v (s.store.bits e.bank)
  { s with store := s.store.setBits e.bank cells }

/-! ### Outputs, draws, faults -/

/-- R10 `out <- v`: the evaluation drives these output ports. -/
def State.drive (s : State) (outs : List (PortName × PortValue)) : State := { s with outputs := outs }

/-- A one-signal output port. -/
def outSig (v : Sig) : List (PortName × PortValue) := [(.out, .sig v)]

/-- A one-word output port. -/
def outWord (v : Word) : List (PortName × PortValue) := [(.out, .word v)]

/-- R10 `draw Word16`: drive `out` with a free word, a new one each time. -/
def State.driveDraw (s : State) : State :=
  { s with outputs := outWord (Config.freeWord s.draws), draws := s.draws + 1 }

/-- R302: a faulting evaluation commits nothing and drives no output; the block records the fault in its mark. -/
def State.raiseFault (s : State) (f : Fault) : State := { s with outputs := [], faultMark := some f }

/-- R301: the fault's code. -/
def faultCode : Fault → Nat
  | .signal _ _ => 1
  | .width _ _ _ => 2
  | .unmapped _ => 3

/-- R301: the refusal's code. Only `REFUSE_MULTI_EVAL` is a reason of R301; the other refusals are not and have none. -/
def refusalCode : Refusal → Option Nat
  | .multiEval _ _ _ => some 4
  | _ => none

/-! ### The shapes of an evaluation -/

/-- A combinational evaluation drives its outputs and does nothing else (R100). -/
def evalPure (outs : List (PortName × PortValue)) (s : State) : Result := .next (s.drive outs)

/-- R160: a committing evaluation of a word element: commit `v`, drive `out` with it. -/
def evalCommitWord (e : WordRef) (v : Word) (s : State) : Result :=
  .next ((s.commitWord e v).drive (outWord v))

/-- R160: an evaluation of a word element that commits nothing: drive `out` with the committed word. -/
def evalReadWord (e : WordRef) (s : State) : Result := .next (s.drive (outWord (s.readWord e)))

/-- R160: a committing evaluation of a bit element. -/
def evalCommitBit (e : BitRef) (v : Sig) (s : State) : Result :=
  .next ((s.commitBit e v).drive (outSig v))

/-- R160: an evaluation of a bit element that commits nothing. -/
def evalReadBit (e : BitRef) (s : State) : Result := .next (s.drive (outSig (s.readBit e)))

/-- The operation raises a fault: the block's next state carries the mark, and takes no step (R302, log 11). -/
def evalFault (f : Fault) (s : State) : Result := .next (s.raiseFault f)

end Sys2Proof.Machine
end

