-- ==== Sys2Proof/Machine/Flags.lean ====
section
/-! DEFINITION. The block has no flags (10_state.md R30; every operation of 40_gates.md to 43_memory_hierarchy.md says
"Flags: none"). Its only carries are output ports of the half-adder and the full-adder (41_arithmetic.md R140, R141),
computed here; the adder discards its last carry (R142). -/

namespace Sys2Proof.Machine

/-- R140: the half-adder's `sum`. -/
def halfSum (a b : Sig) : Sig := a ^^ b

/-- R140: the half-adder's `carry`. -/
def halfCarry (a b : Sig) : Sig := a && b

/-- R141: the full-adder's `sum`, through its two half-adders. -/
def fullSum (a b c : Sig) : Sig := halfSum (halfSum a b) c

/-- R141: the full-adder's `carry`: the OR of the two half-adders' carries. -/
def fullCarry (a b c : Sig) : Sig := halfCarry a b || halfCarry (halfSum a b) c

end Sys2Proof.Machine
end

