-- ==== Sys2Proof/Machine/Gates.lean ====
section
/-! DEFINITION. The gate library (40_gates.md). A gate's meaning is its truth function (R100, D26); the networks of
R123 are in Machine/Composition.lean. Every meaning drives the gate's output ports and does nothing else. -/

namespace Sys2Proof.Machine

/-- R101. -/
def nandGate (a b : Sig) : Sig := !(a && b)

/-- R114: the OR of all 8 bits. -/
def or8 (w : BitVec 8) : Sig := (List.range 8).any fun k => w.getLsbD k

/-- R101 NAND. -/
def execNand (a b : Sig) (s : State) : Result := evalPure (outSig (nandGate a b)) s

/-- R102 NOT. -/
def execNot (inp : Sig) (s : State) : Result := evalPure (outSig (!inp)) s

/-- R103 AND. -/
def execAnd (a b : Sig) (s : State) : Result := evalPure (outSig (a && b)) s

/-- R104 OR. -/
def execOr (a b : Sig) (s : State) : Result := evalPure (outSig (a || b)) s

/-- R105 XOR. -/
def execXor (a b : Sig) (s : State) : Result := evalPure (outSig (a ^^ b)) s

/-- R106 MUX. -/
def execMux (a b sel : Sig) (s : State) : Result := evalPure (outSig (pick2 a b sel)) s

/-- R107 DMUX. -/
def execDmux (inp sel : Sig) (s : State) : Result := evalPure (sigPorts (route false inp 2 sel.toNat)) s

/-- R108 NOT16. -/
def execNot16 (inp : Word) (s : State) : Result := evalPure (outWord (~~~inp)) s

/-- R109 AND16. -/
def execAnd16 (a b : Word) (s : State) : Result := evalPure (outWord (a &&& b)) s

/-- R110 OR16. -/
def execOr16 (a b : Word) (s : State) : Result := evalPure (outWord (a ||| b)) s

/-- R111 XOR16. -/
def execXor16 (a b : Word) (s : State) : Result := evalPure (outWord (a ^^^ b)) s

/-- R112 MUX16. -/
def execMux16 (a b : Word) (sel : Sig) (s : State) : Result := evalPure (outWord (pick2 a b sel)) s

/-- R113 DMUX16. -/
def execDmux16 (inp : Word) (sel : Sig) (s : State) : Result :=
  evalPure (wordPorts (route 0x0000#16 inp 2 sel.toNat)) s

/-- R114 OR8WAY. -/
def execOr8way (inp : BitVec 8) (s : State) : Result := evalPure (outSig (or8 inp)) s

/-- R115 MUX4WAY. -/
def execMux4way (a b c d : Sig) (sel : BitVec 2) (s : State) : Result := evalPure (outSig (pick4 a b c d sel)) s

/-- R116 MUX4WAY16. -/
def execMux4way16 (a b c d : Word) (sel : BitVec 2) (s : State) : Result :=
  evalPure (outWord (pick4 a b c d sel)) s

/-- R117 MUX8WAY. -/
def execMux8way (a b c d e f g h : Sig) (sel : BitVec 3) (s : State) : Result :=
  evalPure (outSig (pick8 a b c d e f g h sel)) s

/-- R118 MUX8WAY16. -/
def execMux8way16 (a b c d e f g h : Word) (sel : BitVec 3) (s : State) : Result :=
  evalPure (outWord (pick8 a b c d e f g h sel)) s

/-- R119 DMUX4WAY. -/
def execDmux4way (inp : Sig) (sel : BitVec 2) (s : State) : Result :=
  evalPure (sigPorts (route false inp 4 (uval sel))) s

/-- R120 DMUX4WAY16. -/
def execDmux4way16 (inp : Word) (sel : BitVec 2) (s : State) : Result :=
  evalPure (wordPorts (route 0x0000#16 inp 4 (uval sel))) s

/-- R121 DMUX8WAY. -/
def execDmux8way (inp : Sig) (sel : BitVec 3) (s : State) : Result :=
  evalPure (sigPorts (route false inp 8 (uval sel))) s

/-- R122 DMUX8WAY16. -/
def execDmux8way16 (inp : Word) (sel : BitVec 3) (s : State) : Result :=
  evalPure (wordPorts (route 0x0000#16 inp 8 (uval sel))) s

end Sys2Proof.Machine
end

