-- ==== Sys2Proof/Machine/Arithmetic.lean ====
section
/-! DEFINITION. The arithmetic units (41_arithmetic.md). The ripple-carry network of R142 is in
Machine/Composition.lean. -/

namespace Sys2Proof.Machine

/-- R142: addition modulo 2^16, the last carry discarded. -/
def addWords (a b : Word) : Word := a + b

/-- R143: "Add(a, bit-pattern-for-one)". -/
def incWord (w : Word) : Word := addWords w 0x0001#16

/-- The output ports of an adder unit. -/
def outSumCarry (sum carry : Sig) : List (PortName × PortValue) := [(.sum, .sig sum), (.carry, .sig carry)]

/-- R140 HALFADDER. -/
def execHalfadder (a b : Sig) (s : State) : Result := evalPure (outSumCarry (halfSum a b) (halfCarry a b)) s

/-- R141 FULLADDER. -/
def execFulladder (a b c : Sig) (s : State) : Result := evalPure (outSumCarry (fullSum a b c) (fullCarry a b c)) s

/-- R142 ADD16. -/
def execAdd16 (a b : Word) (s : State) : Result := evalPure (outWord (addWords a b)) s

/-- R143 INC16. -/
def execInc16 (inp : Word) (s : State) : Result := evalPure (outWord (incWord inp)) s

end Sys2Proof.Machine
end

