-- ==== Sys2Proof/Machine/Sequential.lean ====
section
/-! DEFINITION. The sequential primitives (42_sequential.md): DFF, BIT, REGISTER and PC. An input that the rule calls
ignored is an argument that the meaning does not use. -/

namespace Sys2Proof.Machine

/-- R21: the bit of a DFF. -/
def dffRef (i : Inst) : BitRef := ⟨.dff, i⟩

/-- R22: the bit of a BIT. -/
def bitRef (i : Inst) : BitRef := ⟨.bit, i⟩

/-- R23: the word of a REGISTER. -/
def registerRef (i : Inst) : WordRef := ⟨.register, i, 0⟩

/-- R24: the count of a PC. -/
def pcRef (i : Inst) : WordRef := ⟨.pc, i, 0⟩

/-- R162 DFF.LATCH. -/
def execDffLatch (i : Inst) (inp : Sig) (s : State) : Result := evalCommitBit (dffRef i) inp s

/-- R163 DFF.HOLD. -/
def execDffHold (i : Inst) (_inp : Sig) (s : State) : Result := evalReadBit (dffRef i) s

/-- R164 BIT.LOAD. -/
def execBitLoad (i : Inst) (inp : Sig) (s : State) : Result := evalCommitBit (bitRef i) inp s

/-- R165 BIT.HOLD. -/
def execBitHold (i : Inst) (_inp _load _clock : Sig) (s : State) : Result := evalReadBit (bitRef i) s

/-- R166 REGISTER.LOAD. -/
def execRegisterLoad (i : Inst) (inp : Word) (s : State) : Result := evalCommitWord (registerRef i) inp s

/-- R167 REGISTER.HOLD. -/
def execRegisterHold (i : Inst) (_inp : Word) (_load _clock : Sig) (s : State) : Result :=
  evalReadWord (registerRef i) s

/-- R168 PC.RESET. -/
def execPcReset (i : Inst) (_inp : Word) (_load _inc : Sig) (s : State) : Result :=
  evalCommitWord (pcRef i) 0x0000#16 s

/-- R169 PC.LOAD. -/
def execPcLoad (i : Inst) (inp : Word) (_inc : Sig) (s : State) : Result := evalCommitWord (pcRef i) inp s

/-- R170 PC.INC: the count held is incremented (C4). -/
def execPcInc (i : Inst) (_inp : Word) (s : State) : Result :=
  evalCommitWord (pcRef i) (incWord (s.readWord (pcRef i))) s

/-- R171 PC.HOLD. -/
def execPcHold (i : Inst) (_inp : Word) (_reset _load _inc _clock : Sig) (s : State) : Result :=
  evalReadWord (pcRef i) s

end Sys2Proof.Machine
end

