-- ==== Sys2Proof/Machine/MemoryHierarchy.lean ====
section
/-! DEFINITION. The memory hierarchy (43_memory_hierarchy.md): the RAM family, SCREEN, KEYBOARD and MEMORY, each in
the array form of R200. The tree of R200 is in Machine/Composition.lean. -/

namespace Sys2Proof.Machine

/-- R25, R51: word `uval address` of a RAM8. -/
def ram8Ref (i : Inst) (address : BitVec 3) : WordRef := ⟨.ram8, i, address.setWidth 15⟩

/-- R25, R51: word `uval address` of a RAM64. -/
def ram64Ref (i : Inst) (address : BitVec 6) : WordRef := ⟨.ram64, i, address.setWidth 15⟩

/-- R25, R51: word `uval address` of a RAM512. -/
def ram512Ref (i : Inst) (address : BitVec 9) : WordRef := ⟨.ram512, i, address.setWidth 15⟩

/-- R25, R51: word `uval address` of a RAM4K. -/
def ram4kRef (i : Inst) (address : BitVec 12) : WordRef := ⟨.ram4k, i, address.setWidth 15⟩

/-- R25, R51: word `uval address` of a RAM16K. -/
def ram16kRef (i : Inst) (address : BitVec 14) : WordRef := ⟨.ram16k, i, address.setWidth 15⟩

/-- R26, R51: word `uval address` of a SCREEN. -/
def screenRef (i : Inst) (address : BitVec 14) : WordRef := ⟨.screen, i, address.setWidth 15⟩

/-- R27: the value of a stand-alone KEYBOARD. -/
def kbdRef (i : Inst) : WordRef := ⟨.kbd, i, 0⟩

/-- R28, R215: the word of a MEMORY's RAM16K at `address[13:0]`. -/
def memRamRef (i : Inst) (address : BitVec 15) : WordRef := ⟨.memRam, i, ramOffset address⟩

/-- R28, R217: the word of a MEMORY's SCREEN at `uval(address) - SCREEN_BASE`. -/
def memScreenRef (cfg : Config) (i : Inst) (address : BitVec 15) : WordRef :=
  ⟨.memScreen, i, cfg.screenOffset address⟩

/-- R28: the keyboard value of a MEMORY. -/
def memKbdRef (i : Inst) : WordRef := ⟨.memKbd, i, 0⟩

/-- R201 RAM8.WRITE. -/
def execRam8Write (i : Inst) (inp : Word) (address : BitVec 3) (s : State) : Result :=
  evalCommitWord (ram8Ref i address) inp s

/-- R202 RAM8.READ. -/
def execRam8Read (i : Inst) (_inp : Word) (address : BitVec 3) (_load _clock : Sig) (s : State) : Result :=
  evalReadWord (ram8Ref i address) s

/-- R203 RAM64.WRITE. -/
def execRam64Write (i : Inst) (inp : Word) (address : BitVec 6) (s : State) : Result :=
  evalCommitWord (ram64Ref i address) inp s

/-- R204 RAM64.READ. -/
def execRam64Read (i : Inst) (_inp : Word) (address : BitVec 6) (_load _clock : Sig) (s : State) : Result :=
  evalReadWord (ram64Ref i address) s

/-- R205 RAM512.WRITE. -/
def execRam512Write (i : Inst) (inp : Word) (address : BitVec 9) (s : State) : Result :=
  evalCommitWord (ram512Ref i address) inp s

/-- R206 RAM512.READ. -/
def execRam512Read (i : Inst) (_inp : Word) (address : BitVec 9) (_load _clock : Sig) (s : State) : Result :=
  evalReadWord (ram512Ref i address) s

/-- R207 RAM4K.WRITE. -/
def execRam4kWrite (i : Inst) (inp : Word) (address : BitVec 12) (s : State) : Result :=
  evalCommitWord (ram4kRef i address) inp s

/-- R208 RAM4K.READ. -/
def execRam4kRead (i : Inst) (_inp : Word) (address : BitVec 12) (_load _clock : Sig) (s : State) : Result :=
  evalReadWord (ram4kRef i address) s

/-- R209 RAM16K.WRITE. -/
def execRam16kWrite (i : Inst) (inp : Word) (address : BitVec 14) (s : State) : Result :=
  evalCommitWord (ram16kRef i address) inp s

/-- R210 RAM16K.READ. -/
def execRam16kRead (i : Inst) (_inp : Word) (address : BitVec 14) (_load _clock : Sig) (s : State) : Result :=
  evalReadWord (ram16kRef i address) s

/-- R211 SCREEN.WRITE. -/
def execScreenWrite (i : Inst) (inp : Word) (address : BitVec 14) (s : State) : Result :=
  evalCommitWord (screenRef i address) inp s

/-- R212 SCREEN.READ. -/
def execScreenRead (i : Inst) (_inp : Word) (address : BitVec 14) (_load _clock : Sig) (s : State) : Result :=
  evalReadWord (screenRef i address) s

/-- R213 KEYBOARD.READ. -/
def execKeyboardRead (i : Inst) (s : State) : Result := evalReadWord (kbdRef i) s

/-- R215 MEM.RAM.WRITE. -/
def execMemRamWrite (i : Inst) (inp : Word) (address : BitVec 15) (s : State) : Result :=
  evalCommitWord (memRamRef i address) inp s

/-- R216 MEM.RAM.READ. -/
def execMemRamRead (i : Inst) (_inp : Word) (address : BitVec 15) (_load _clock : Sig) (s : State) : Result :=
  evalReadWord (memRamRef i address) s

/-- R217 MEM.SCREEN.WRITE. -/
def execMemScreenWrite (i : Inst) (inp : Word) (address : BitVec 15) (s : State) : Result :=
  evalCommitWord (memScreenRef s.config i address) inp s

/-- R218 MEM.SCREEN.READ. -/
def execMemScreenRead (i : Inst) (_inp : Word) (address : BitVec 15) (_load _clock : Sig) (s : State) : Result :=
  evalReadWord (memScreenRef s.config i address) s

/-- R219 MEM.KBD.WRITE: "any load directed at its address has no effect"; `out` shows the keyboard value. -/
def execMemKbdWrite (i : Inst) (_inp : Word) (_address : BitVec 15) (s : State) : Result :=
  evalReadWord (memKbdRef i) s

/-- R220 MEM.KBD.READ. -/
def execMemKbdRead (i : Inst) (_inp : Word) (_address : BitVec 15) (_load _clock : Sig) (s : State) : Result :=
  evalReadWord (memKbdRef i) s

/-- R221 MEM.UNMAPPED.WRITE: it faults, or is ignored with a drawn output; it commits nothing. -/
def execMemUnmappedWrite (_i : Inst) (_inp : Word) (address : BitVec 15) (s : State) : Result :=
  match s.config.unmappedWrite with
  | .fault => evalFault (.unmapped address) s
  | .ignore => .next s.driveDraw

/-- R222 MEM.UNMAPPED.READ: a drawn output, or a fault; it commits nothing. -/
def execMemUnmappedRead (_i : Inst) (_inp : Word) (address : BitVec 15) (_load _clock : Sig) (s : State) : Result :=
  match s.config.unmappedRead with
  | .draw => .next s.driveDraw
  | .fault => evalFault (.unmapped address) s

end Sys2Proof.Machine
end

