-- ==== Sys2Proof/Machine/Dispatch.lean ====
section
/-! DEFINITION. One arm per operation of opcode_table.json, each one call of its meaning. -/

namespace Sys2Proof.Machine

/-- The effect of one evaluation. -/
def exec (i : Instr) (s : State) : Host.Outcome State Fault Refusal :=
  match i with
  -- 40_gates.md
  | .nand a b => Sys2Proof.Machine.execNand a b s
  | .not inp => Sys2Proof.Machine.execNot inp s
  | .and a b => Sys2Proof.Machine.execAnd a b s
  | .or a b => Sys2Proof.Machine.execOr a b s
  | .xor a b => Sys2Proof.Machine.execXor a b s
  | .mux a b sel => Sys2Proof.Machine.execMux a b sel s
  | .dmux inp sel => Sys2Proof.Machine.execDmux inp sel s
  | .not16 inp => Sys2Proof.Machine.execNot16 inp s
  | .and16 a b => Sys2Proof.Machine.execAnd16 a b s
  | .or16 a b => Sys2Proof.Machine.execOr16 a b s
  | .xor16 a b => Sys2Proof.Machine.execXor16 a b s
  | .mux16 a b sel => Sys2Proof.Machine.execMux16 a b sel s
  | .dmux16 inp sel => Sys2Proof.Machine.execDmux16 inp sel s
  | .or8way inp => Sys2Proof.Machine.execOr8way inp s
  | .mux4way a b c d sel => Sys2Proof.Machine.execMux4way a b c d sel s
  | .mux4way16 a b c d sel => Sys2Proof.Machine.execMux4way16 a b c d sel s
  | .mux8way a b c d e f g h sel => Sys2Proof.Machine.execMux8way a b c d e f g h sel s
  | .mux8way16 a b c d e f g h sel => Sys2Proof.Machine.execMux8way16 a b c d e f g h sel s
  | .dmux4way inp sel => Sys2Proof.Machine.execDmux4way inp sel s
  | .dmux4way16 inp sel => Sys2Proof.Machine.execDmux4way16 inp sel s
  | .dmux8way inp sel => Sys2Proof.Machine.execDmux8way inp sel s
  | .dmux8way16 inp sel => Sys2Proof.Machine.execDmux8way16 inp sel s
  -- 41_arithmetic.md
  | .halfadder a b => Sys2Proof.Machine.execHalfadder a b s
  | .fulladder a b c => Sys2Proof.Machine.execFulladder a b c s
  | .add16 a b => Sys2Proof.Machine.execAdd16 a b s
  | .inc16 inp => Sys2Proof.Machine.execInc16 inp s
  -- 42_sequential.md
  | .dffLatch n inp => Sys2Proof.Machine.execDffLatch n inp s
  | .dffHold n inp => Sys2Proof.Machine.execDffHold n inp s
  | .bitLoad n inp => Sys2Proof.Machine.execBitLoad n inp s
  | .bitHold n inp load clock => Sys2Proof.Machine.execBitHold n inp load clock s
  | .registerLoad n inp => Sys2Proof.Machine.execRegisterLoad n inp s
  | .registerHold n inp load clock => Sys2Proof.Machine.execRegisterHold n inp load clock s
  | .pcReset n inp load inc => Sys2Proof.Machine.execPcReset n inp load inc s
  | .pcLoad n inp inc => Sys2Proof.Machine.execPcLoad n inp inc s
  | .pcInc n inp => Sys2Proof.Machine.execPcInc n inp s
  | .pcHold n inp reset load inc clock => Sys2Proof.Machine.execPcHold n inp reset load inc clock s
  -- 43_memory_hierarchy.md
  | .ram8Write n inp address => Sys2Proof.Machine.execRam8Write n inp address s
  | .ram8Read n inp address load clock => Sys2Proof.Machine.execRam8Read n inp address load clock s
  | .ram64Write n inp address => Sys2Proof.Machine.execRam64Write n inp address s
  | .ram64Read n inp address load clock => Sys2Proof.Machine.execRam64Read n inp address load clock s
  | .ram512Write n inp address => Sys2Proof.Machine.execRam512Write n inp address s
  | .ram512Read n inp address load clock => Sys2Proof.Machine.execRam512Read n inp address load clock s
  | .ram4kWrite n inp address => Sys2Proof.Machine.execRam4kWrite n inp address s
  | .ram4kRead n inp address load clock => Sys2Proof.Machine.execRam4kRead n inp address load clock s
  | .ram16kWrite n inp address => Sys2Proof.Machine.execRam16kWrite n inp address s
  | .ram16kRead n inp address load clock => Sys2Proof.Machine.execRam16kRead n inp address load clock s
  | .screenWrite n inp address => Sys2Proof.Machine.execScreenWrite n inp address s
  | .screenRead n inp address load clock => Sys2Proof.Machine.execScreenRead n inp address load clock s
  | .keyboardRead n => Sys2Proof.Machine.execKeyboardRead n s
  | .memRamWrite n inp address => Sys2Proof.Machine.execMemRamWrite n inp address s
  | .memRamRead n inp address load clock => Sys2Proof.Machine.execMemRamRead n inp address load clock s
  | .memScreenWrite n inp address => Sys2Proof.Machine.execMemScreenWrite n inp address s
  | .memScreenRead n inp address load clock => Sys2Proof.Machine.execMemScreenRead n inp address load clock s
  | .memKbdWrite n inp address => Sys2Proof.Machine.execMemKbdWrite n inp address s
  | .memKbdRead n inp address load clock => Sys2Proof.Machine.execMemKbdRead n inp address load clock s
  | .memUnmappedWrite n inp address => Sys2Proof.Machine.execMemUnmappedWrite n inp address s
  | .memUnmappedRead n inp address load clock => Sys2Proof.Machine.execMemUnmappedRead n inp address load clock s

end Sys2Proof.Machine
end

