-- ==== Sys2Proof/Machine/Boundary.lean ====
section
/-! DEFINITION. The boundary where untyped data enters (30_encoding.md R87): the checks that every digit is 0 or 1 and
every word has its port's width, in the order of 60_exceptions.md R303, and then the selection of the operation. -/

namespace Sys2Proof.Machine

/-- What the boundary answers for an untyped evaluation. -/
inductive Boundary
  | accepted (i : Instr)
  | faulted (f : Fault)
  | rejected (r : Refusal)
  deriving DecidableEq, Repr

/-- R8: the unsigned value of a list of binary digits, most significant first. -/
def rawValue (digits : RawValue) : Nat := digits.foldl (fun n d => 2 * n + d) 0

/-- R6, R87: the first port that holds something other than a Signal. -/
def badSignal (values : List (PortName × RawValue)) : Option PortName :=
  (values.find? fun p => p.2.any fun d => decide (1 < d)).map (·.1)

/-- R7, R87: the first port whose value has another width than the port, with the width given. -/
def badWidth : List (PortName × Nat) → List (PortName × RawValue) → Option (PortName × Nat)
  | p :: ports, v :: values => if v.2.length = p.2 then badWidth ports values else some (p.1, v.2.length)
  | [], _ => none
  | _ :: _, [] => none

/-- R87, R303: `F_SIGNAL` before `F_WIDTH`, both before the decode. -/
def boundary (cfg : Config) (c : Component) (i : Inst) (values : List (PortName × RawValue)) : Boundary :=
  if values.map (·.1) ≠ (c.inputs cfg).map (·.1) then .rejected (.wrongPorts c)
  else match badSignal values with
    | some p => .faulted (.signal c p)
    | none => match badWidth (c.inputs cfg) values with
      | some (p, given) => .faulted (.width c p given)
      | none => match select cfg i c (values.map fun v => rawValue v.2) with
        | some op => .accepted op
        | none => .rejected (.wrongPorts c)

/-- The digits of a number in a given width, most significant first (R8). -/
def digitsOf : Nat → Nat → RawValue
  | 0, _ => []
  | w + 1, n => digitsOf w (n / 2) ++ [n % 2]

/-- The untyped evaluation that drives an operation's ports with its operands. -/
def rawPorts (cfg : Config) (i : Instr) : List (PortName × RawValue) :=
  List.zipWith (fun p v => (p.1, digitsOf p.2 v)) (i.component.inputs cfg) i.values

end Sys2Proof.Machine
end

