-- ==== Sys2Proof/Machine/Environment.lean ====
section
/-! DEFINITION. The environment's clock (70_reset_and_hazards.md R403, R405) and the host's moves (60_exceptions.md
R311). -/

namespace Sys2Proof.Machine

/-- The clock value an evaluation takes place under: that of its `clock` port (R81). A DFF has no such port, but its
control input is the commit condition itself, which holds only while the clock is high (R160 point 2, R408; log 5): so
DFF.LATCH takes place under 1. None for the rest. -/
def clockOf : Instr → Option Sig
  | .nand .. => none
  | .not .. => none
  | .and .. => none
  | .or .. => none
  | .xor .. => none
  | .mux .. => none
  | .dmux .. => none
  | .not16 .. => none
  | .and16 .. => none
  | .or16 .. => none
  | .xor16 .. => none
  | .mux16 .. => none
  | .dmux16 .. => none
  | .or8way .. => none
  | .mux4way .. => none
  | .mux4way16 .. => none
  | .mux8way .. => none
  | .mux8way16 .. => none
  | .dmux4way .. => none
  | .dmux4way16 .. => none
  | .dmux8way .. => none
  | .dmux8way16 .. => none
  | .halfadder .. => none
  | .fulladder .. => none
  | .add16 .. => none
  | .inc16 .. => none
  | .dffLatch .. => some true
  | .dffHold .. => none
  | .bitLoad .. => some true
  | .bitHold _ _ _ clock => some clock
  | .registerLoad .. => some true
  | .registerHold _ _ _ clock => some clock
  | .pcReset .. => some true
  | .pcLoad .. => some true
  | .pcInc .. => some true
  | .pcHold _ _ _ _ _ clock => some clock
  | .ram8Write .. => some true
  | .ram8Read _ _ _ _ clock => some clock
  | .ram64Write .. => some true
  | .ram64Read _ _ _ _ clock => some clock
  | .ram512Write .. => some true
  | .ram512Read _ _ _ _ clock => some clock
  | .ram4kWrite .. => some true
  | .ram4kRead _ _ _ _ clock => some clock
  | .ram16kWrite .. => some true
  | .ram16kRead _ _ _ _ clock => some clock
  | .screenWrite .. => some true
  | .screenRead _ _ _ _ clock => some clock
  | .keyboardRead .. => none
  | .memRamWrite .. => some true
  | .memRamRead _ _ _ _ clock => some clock
  | .memScreenWrite .. => some true
  | .memScreenRead _ _ _ _ clock => some clock
  | .memKbdWrite .. => some true
  | .memKbdRead _ _ _ _ clock => some clock
  | .memUnmappedWrite .. => some true
  | .memUnmappedRead _ _ _ _ clock => some clock

/-- The clock enters phase `p` of the cycle it is in, or leaves the cycle: no instance has been evaluated yet. -/
def Env.enter (v : Env) (p : Phase) : Env := { v with phase := p, evaluated := [] }

/-- The clock enters the next cycle, at phase `p`. -/
def Env.enterCycle (v : Env) (p : Phase) : Env := { v with phase := p, evaluated := [], cycle := v.cycle + 1 }

/-- R403: phases alternate strictly: low, high, low, high, and a cycle is one low and one high phase. -/
def Env.advance (v : Env) : Env :=
  match v.phase with
  | .between => v.enterCycle .low
  | .low => v.enter .high
  | .high => v.enter .between

/-- The clock's position when an evaluation with this `clock` value takes place: the phase it is in if that is the
port's value, else the next phase of that value, the phases between being skipped (R405: a skipped instance holds;
log 4). An evaluation with no clock value takes place in the present phase, or in the next cycle's low phase. -/
def Env.forClock (v : Env) (clock : Option Sig) : Env :=
  match clock, v.phase with
  | none, .between => v.enterCycle .low
  | none, .low => v
  | none, .high => v
  | some false, .between => v.enterCycle .low
  | some false, .low => v
  | some false, .high => v.enterCycle .low
  | some true, .between => v.enterCycle .high
  | some true, .low => v.enter .high
  | some true, .high => v

/-- R311: "set keyboard value" is the one write the host may make. -/
def WordRef.isKeyboard (e : WordRef) : Bool := decide (e.bank = .kbd) || decide (e.bank = .memKbd)

/-- R311: a move of the host, between cycles only. -/
def hostMove (m : HostMove) (s : State) : Result :=
  if s.env.phase = .between then
    match m with
    | .readWord e =>
      if e.inRange s.config then
        .next { s with env := { s.env with inspected := some (.word (s.readWord e)) } }
      else .refused .hostNoElement
    | .readBit e => .next { s with env := { s.env with inspected := some (.sig (s.readBit e)) } }
    | .writeWord e v =>
      if e.isKeyboard && e.inRange s.config then .next (s.commitWord e v) else .refused .hostWrite
    | .writeBit _ _ => .refused .hostWrite
    | .stop => .next { s with env := { s.env with stopped := true } }
  else .refused .hostDuringCycle

end Sys2Proof.Machine
end

