-- ==== Sys2Proof/Machine/Evaluate.lean ====
section
/-! DEFINITION. One evaluation under the clocking discipline (42_sequential.md R160, 70_reset_and_hazards.md R405), and
what the machine does with one input of its schedule. -/

namespace Sys2Proof.Machine

/-- R405: the clock takes its position for the evaluation, and a sequential instance is marked as evaluated in the
phase; a second evaluation of it in the phase is refused. DESIGN CHOICE (log 15): a second evaluation of a MEMORY whose
address is unmapped is refused before `F_UNMAPPED` can be raised; R303 orders the fault reasons only. -/
def evaluate (i : Instr) (s : State) : Result :=
  let v := s.env.forClock (clockOf i)
  if i.component.sequential then
    if (i.component, i.inst) ∈ v.evaluated then .refused (.multiEval i.component i.inst v.phase)
    else exec i { s with env := { v with evaluated := (i.component, i.inst) :: v.evaluated } }
  else exec i { s with env := v }

/-- What one input does. -/
def runInput (x : Input) (s : State) : Result :=
  match x with
  | .frame f =>
    match decode s.config f with
    | .ok i => evaluate i s
    | .error e => .refused (.badFrame e)
  | .ports c i values =>
    match boundary s.config c i values with
    | .accepted op => evaluate op s
    | .faulted f => evalFault f s
    | .rejected r => .refused r
  | .advance => .next { s with env := s.env.advance }
  | .host m => hostMove m s

end Sys2Proof.Machine
end

