-- ==== Sys2Proof/Machine/Step.lean ====
section
/-! DEFINITION. One step of the machine: the next input of the schedule takes effect. -/

namespace Sys2Proof.Machine

/-- A faulted block takes no step (R302, I13); a stopped run has ended (R411); with no input to come the block waits
unchanged (R314); otherwise the next input takes effect. -/
def step (s : State) : Host.Outcome State Fault Refusal :=
  match s.faultMark with
  | some f => .fault f
  | none =>
    if s.env.stopped then .refused .runEnded
    else match s.env.schedule with
      | [] => .next s
      | x :: rest => runInput x { s with env := { s.env with schedule := rest } }

/-- The state in which a bare opcode-table word is the next input (logs 3 and 18). -/
def State.withFetchWord (s : State) (nbits w : Nat) : State :=
  { s with env := { s.env with schedule := .frame (tableFrame nbits w) :: s.env.schedule } }

end Sys2Proof.Machine
end

