-- ==== Sys2Proof/Machine/Composition.lean ====
section
/-! DEFINITION. The constructions of the components out of smaller ones: the gate networks from NAND (40_gates.md R123),
the adders (41_arithmetic.md R141, R142), BIT, REGISTER and PC as circuits around a flip-flop (42_sequential.md R161 to
R172), and the RAM tree (43_memory_hierarchy.md R200). The meanings of Machine/Gates.lean to
Machine/MemoryHierarchy.lean state the functions; that both agree is stated in the obligations. A sequential
construction maps its stored value and its inputs to the stored value after the evaluation, which is also its output
(R160 point 3). -/

namespace Sys2Proof.Machine

/-! ### Gate networks (R123) -/

/-- NOT(in) = NAND(in, in), the source's own network. -/
def netNot (a : Sig) : Sig := nandGate a a

/-- AND(a, b) = NOT(NAND(a, b)). -/
def netAnd (a b : Sig) : Sig := netNot (nandGate a b)

/-- OR(a, b) = NAND(NOT(a), NOT(b)). -/
def netOr (a b : Sig) : Sig := nandGate (netNot a) (netNot b)

/-- XOR(a, b) = AND(OR(a, b), NAND(a, b)). -/
def netXor (a b : Sig) : Sig := netAnd (netOr a b) (nandGate a b)

/-- MUX(a, b, sel) = OR(AND(a, NOT(sel)), AND(b, sel)). -/
def netMux (a b sel : Sig) : Sig := netOr (netAnd a (netNot sel)) (netAnd b sel)

/-- DMUX(in, sel) = (AND(in, NOT(sel)), AND(in, sel)). -/
def netDmux (inp sel : Sig) : Sig × Sig := (netAnd inp (netNot sel), netAnd inp sel)

/-- A 1-bit gate of one input at each of the 16 positions. -/
def each16 (g : Sig → Sig) (a : Word) : Word := BitVec.ofFnLE fun k => g (a.getLsbD k)

/-- A 1-bit gate of two inputs at each of the 16 positions. -/
def pairs16 (g : Sig → Sig → Sig) (a b : Word) : Word := BitVec.ofFnLE fun k => g (a.getLsbD k) (b.getLsbD k)

/-- MUX16: MUX at each position, with one shared `sel`. -/
def netMux16 (a b : Word) (sel : Sig) : Word := pairs16 (fun x y => netMux x y sel) a b

/-- DMUX16: DMUX at each position, with one shared `sel`. -/
def netDmux16 (inp : Word) (sel : Sig) : Word × Word :=
  (each16 (fun x => (netDmux x sel).1) inp, each16 (fun x => (netDmux x sel).2) inp)

/-- OR8WAY as a tree of ORs. -/
def netOr8 (w : BitVec 8) : Sig :=
  netOr (netOr (netOr (w.getLsbD 7) (w.getLsbD 6)) (netOr (w.getLsbD 5) (w.getLsbD 4)))
    (netOr (netOr (w.getLsbD 3) (w.getLsbD 2)) (netOr (w.getLsbD 1) (w.getLsbD 0)))

/-- MUX4WAY(16) from a two-way multiplexer: `sel[1]` makes the top-level choice. -/
def tree4 {α : Type} (mux : α → α → Sig → α) (a b c d : α) (s1 s0 : Sig) : α := mux (mux a b s0) (mux c d s0) s1

/-- MUX8WAY(16) from a two-way multiplexer: `sel[2]` makes the top-level choice. -/
def tree8 {α : Type} (mux : α → α → Sig → α) (a b c d e f g h : α) (s2 s1 s0 : Sig) : α :=
  mux (tree4 mux a b c d s1 s0) (tree4 mux e f g h s1 s0) s2

/-- DMUX4WAY(16) from a two-way demultiplexer, the outputs in the order a, b, c, d. -/
def spread4 {α : Type} (dmux : α → Sig → α × α) (inp : α) (s1 s0 : Sig) : List α :=
  let (p, q) := dmux inp s1
  [(dmux p s0).1, (dmux p s0).2, (dmux q s0).1, (dmux q s0).2]

/-- DMUX8WAY(16) from a two-way demultiplexer, the outputs in the order a to h. -/
def spread8 {α : Type} (dmux : α → Sig → α × α) (inp : α) (s2 s1 s0 : Sig) : List α :=
  spread4 dmux (dmux inp s2).1 s1 s0 ++ spread4 dmux (dmux inp s2).2 s1 s0

/-! ### Adders (R140 to R143) -/

/-- R140: Half-adder(a, b) = (sum = XOR(a, b), carry = AND(a, b)). -/
def netHalf (a b : Sig) : Sig × Sig := (netXor a b, netAnd a b)

/-- R141: two half-adders and an OR. -/
def netFull (a b c : Sig) : Sig × Sig :=
  let (s1, c1) := netHalf a b
  let (sum, c2) := netHalf s1 c
  (sum, netOr c1 c2)

/-- R142: the carry into position `k`, the least significant position first. -/
def rippleCarry (a b : Word) : Nat → Sig
  | 0 => false
  | k + 1 => (netFull (a.getLsbD k) (b.getLsbD k) (rippleCarry a b k)).2

/-- R142: ripple-carry addition; the carry out of position 15 is discarded. -/
def netAdd16 (a b : Word) : Word :=
  BitVec.ofFnLE fun k => (netFull (a.getLsbD k) (b.getLsbD k) (rippleCarry a b k)).1

/-- R143: Add(in, bit-pattern-for-one). -/
def netInc16 (w : Word) : Word := netAdd16 w 0x0001#16

/-- R145: negation is bitwise complement plus one. -/
def netNeg (w : Word) : Word := netInc16 (each16 netNot w)

/-! ### Storage circuits (R161 to R172) -/

/-- R161: a DFF adopts the input when `c` is 1 and holds otherwise. -/
def dffCircuit (q inp c : Sig) : Sig := if c then inp else q

/-- R164, D9: a BIT is one DFF with `c = AND(load, clock)`. -/
def bitCircuit (q inp load clock : Sig) : Sig := dffCircuit q inp (netAnd load clock)

/-- R23, R166: a REGISTER is 16 BITs that share `load` and `clock`. -/
def registerCircuit (r inp : Word) (load clock : Sig) : Word :=
  BitVec.ofFnLE fun k => bitCircuit (r.getLsbD k) (inp.getLsbD k) load clock

/-- R172: the PC's circuit: a REGISTER with `load = OR(reset, OR(load, inc))` and a chain of MUX16s. -/
def pcCircuit (pc inp : Word) (reset load inc clock : Sig) : Word :=
  registerCircuit pc (netMux16 (netMux16 (netMux16 pc (netInc16 pc) inc) inp load) 0x0000#16 reset)
    (netOr reset (netOr load inc)) clock

/-! ### The RAM tree (R200) -/

/-- A RAM built as R200 says: a REGISTER leaf, or sub-blocks. -/
inductive RamTree
  | leaf (r : Word)
  | node (subs : List RamTree)

/-- The address fields of the levels (R84), top first: level widths `ws` (3 bits for 8 sub-blocks, 2 for 4) take the
high-order bits first, and the remaining bits are passed down. -/
def ramDigits : List Nat → Nat → List Nat
  | [], _ => []
  | _ :: ws, a => a / 2 ^ ws.sum :: ramDigits ws (a % 2 ^ ws.sum)

/-- R200: one evaluation. The decoder passes `load` to the selected sub-block and 0 to the others; every sub-block is
evaluated; the multiplexer picks the selected one's output. -/
def RamTree.eval (inp : Word) (clock : Sig) : List Nat → Sig → RamTree → RamTree × Word
  | [], load, .leaf r => (.leaf (registerCircuit r inp load clock), registerCircuit r inp load clock)
  | j :: js, load, .node subs =>
    let lines := route false load subs.length j
    let evals := subs.mapIdx fun k sub => RamTree.eval inp clock js (lines.getD k false) sub
    (.node (evals.map (·.1)), (evals.map (·.2)).getD j 0)
  | [], _, .node subs => (.node subs, 0)
  | _ :: _, _, .leaf r => (.leaf r, 0)

/-- The tree has the levels `ws`: 2^w sub-blocks at a level of w address bits, REGISTERs at the bottom. -/
def RamTree.shaped : List Nat → RamTree → Prop
  | [], .leaf _ => True
  | w :: ws, .node subs => subs.length = 2 ^ w ∧ ∀ sub ∈ subs, RamTree.shaped ws sub
  | [], .node _ => False
  | _ :: _, .leaf _ => False

/-- R25: `st.m` is the concatenation of the leaves, for a tree with this many levels. -/
def RamTree.words : Nat → RamTree → List Word
  | 0, .leaf r => [r]
  | n + 1, .node subs => subs.flatMap (RamTree.words n)
  | 0, .node _ => []
  | _ + 1, .leaf _ => []

/-- R200: the array form: `if clock = 1 and load = 1: st.m[i] <- in`, and `out` is `st.m[i]` after any commit. -/
def ramArray (m : List Word) (inp : Word) (i : Nat) (load clock : Sig) : List Word × Word :=
  let m' := if clock && load then m.set i inp else m
  (m', m'.getD i 0)

/-- R84, R200: the levels of a RAM, by its size: 8 sub-blocks at a level, but 4 at RAM16K's top. -/
def ramLevels : WordBank → List Nat
  | .ram8 => [3]
  | .ram64 => [3, 3]
  | .ram512 => [3, 3, 3]
  | .ram4k => [3, 3, 3, 3]
  | .ram16k | .memRam => [2, 3, 3, 3, 3]
  | .register | .pc | .screen | .kbd | .memScreen | .memKbd => []

end Sys2Proof.Machine
end

