-- ==== Sys2Proof/Safety.lean ====
section
/-! DEFINITION. The invariant of the machine, what counts as a finished and as a safe run (70_reset_and_hazards.md
R411), who may write each stored element (10_state.md R32), and the words in which claims say what an evaluation
leaves unchanged. -/

namespace Sys2Proof.Machine

/-- Every store is in its canonical form. -/
def State.Canonical (s : State) : Prop :=
  (∀ b, Memory.wf (powerOnWord s.config b) (s.store.words b))
    ∧ ∀ b, Memory.wf (powerOnBit s.config b) (s.store.bits b)

/-- Every listed cell belongs to an instance and an address that exist (R50: no address out of range can occur). -/
def State.CellsInRange (s : State) : Prop :=
  (∀ b, ∀ c ∈ s.store.words b, c.1 / 32768 < 256 ∧ c.1 % 32768 < bankSize s.config b)
    ∧ ∀ b, ∀ c ∈ s.store.bits b, c.1 < 256

/-- What holds at power-on and is kept by every step. -/
structure State.Inv (s : State) : Prop where
  /-- R5: the regions are disjoint and lie inside 0..32767 -/
  config : s.config.wf = true
  canonical : s.Canonical
  inRange : s.CellsInRange
  /-- R302: a faulting evaluation drives no output -/
  faultSilent : s.faultMark ≠ none → s.outputs = []
  /-- R405: no instance has been evaluated in a phase that has not begun -/
  freshBetween : s.env.phase = .between → s.env.evaluated = []
  /-- R405: each sequential instance is evaluated at most once in each phase -/
  once : s.env.evaluated.Nodup
  /-- R311: the host stops the run between cycles only -/
  stoppedBetween : s.env.stopped = true → s.env.phase = .between

/-- R411: a run that the host has stopped, and that has not faulted; its committed state is the end state. -/
def State.Finished (s : State) : Prop := s.env.stopped = true ∧ s.faultMark = none

/-- The first `n` steps from `s` meet no fault and no refusal. -/
def SafeRun (n : Nat) (s : State) : Prop := ∃ t, Sys2Proof.core.run n s = .next t ∧ t.faultMark = none

/-- R32, column "written by": the operations that commit to a word element. -/
def wordWriters : WordBank → List String
  | .register => ["REGISTER.LOAD"]
  | .pc => ["PC.RESET", "PC.LOAD", "PC.INC"]
  | .ram8 => ["RAM8.WRITE"]
  | .ram64 => ["RAM64.WRITE"]
  | .ram512 => ["RAM512.WRITE"]
  | .ram4k => ["RAM4K.WRITE"]
  | .ram16k => ["RAM16K.WRITE"]
  | .screen => ["SCREEN.WRITE"]
  | .memRam => ["MEM.RAM.WRITE"]
  | .memScreen => ["MEM.SCREEN.WRITE"]
  | .kbd | .memKbd => []

/-- R32, column "written by": the operations that commit to a bit element. -/
def bitWriters : BitBank → List String
  | .dff => ["DFF.LATCH"]
  | .bit => ["BIT.LOAD"]

/-- The two states hold the same value in every stored element. -/
def State.SameStored (s t : State) : Prop :=
  (∀ e, t.readWord e = s.readWord e) ∧ ∀ e, t.readBit e = s.readBit e

/-- `t` is `s` but for the word `e` and the outputs. -/
structure State.ChangesOnlyWord (e : WordRef) (s t : State) : Prop where
  words : ∀ e', e' ≠ e → t.readWord e' = s.readWord e'
  bits : ∀ b, t.readBit b = s.readBit b
  config : t.config = s.config
  draws : t.draws = s.draws
  faultMark : t.faultMark = s.faultMark
  env : t.env = s.env

/-- `t` is `s` but for the bit `e` and the outputs. -/
structure State.ChangesOnlyBit (e : BitRef) (s t : State) : Prop where
  words : ∀ w, t.readWord w = s.readWord w
  bits : ∀ e', e' ≠ e → t.readBit e' = s.readBit e'
  config : t.config = s.config
  draws : t.draws = s.draws
  faultMark : t.faultMark = s.faultMark
  env : t.env = s.env

/-- A sequence of evaluations, one after another (R61: in evaluation order). -/
def execAll : List Instr → State → Option State
  | [], s => some s
  | i :: is, s =>
    match exec i s with
    | .next t => execAll is t
    | .fault _ => none
    | .refused _ => none

/-- The width of a port value (R81). -/
def portWidth : PortValue → Nat
  | .sig _ => 1
  | .word _ => 16

/-- The position of the clock as a number that grows with time: low, high, then the end of the cycle (R403). -/
def Env.time (v : Env) : Nat :=
  3 * v.cycle + (match v.phase with
    | .low => 0
    | .high => 1
    | .between => 2)

/-- The tree holds, leaf by leaf, the words that `ref` names (R200). -/
def Represents {k : Nat} (levels : List Nat) (ref : BitVec k → WordRef) (tree : RamTree) (s : State) : Prop :=
  ∀ a : BitVec k, (tree.words levels.length)[uval a]? = some (s.readWord (ref a))

/-- R200: a RAM's operations do to its words, and drive on `out`, what the tree of sub-blocks does, for every input. -/
def RamSimulates {k : Nat} (levels : List Nat) (ref : BitVec k → WordRef) (write : Word → BitVec k → Instr)
    (read : Word → BitVec k → Sig → Sig → Instr) : Prop :=
  ∀ (tree : RamTree) (s : State) (x : Word) (a : BitVec k) (load clock : Sig),
    tree.shaped levels → Represents levels ref tree s →
      ∃ t, exec (if clock && load then write x a else read x a load clock) s = .next t
        ∧ (tree.eval x clock (ramDigits levels (uval a)) load).1.shaped levels
        ∧ Represents levels ref (tree.eval x clock (ramDigits levels (uval a)) load).1 t
        ∧ t.outputs = outWord (tree.eval x clock (ramDigits levels (uval a)) load).2

end Sys2Proof.Machine
end

