-- ==== Sys2Proof/Certificates/Slice0/Obligations.lean ====
section
/-! DEFINITION. The statements for the provers. Each docstring says which rule of spec/ the statement formalises. -/

open Sys2Proof Sys2Proof.Machine

/-! ### Encoding (30_encoding.md) -/

/-- R80, R91: the frame of a well-formed operation decodes to it, with every operand at every value. The frame's layout
is the model's (log 1). -/
def Obligations.EncodeThenDecode : Prop :=
  ∀ (cfg : Config) (i : Instr), i.wellFormed cfg = true → decode cfg (encode i) = .ok i

/-- R80, R91: a frame that decodes is the frame of its operation, which is well formed: no bit is ignored (log 1). -/
def Obligations.DecodeThenEncode : Prop :=
  ∀ (cfg : Config) (f : Frame) (i : Instr), decode cfg f = .ok i → encode i = f ∧ i.wellFormed cfg = true

/-- R82: the operation that a control word selects is the first row of opcode_table.json that matches it. -/
def Obligations.ControlWordSelectsFirstMatchingRow : Prop :=
  ∀ i : Instr, i.wellFormed Config.standard = true →
    (firstRow i.component i.controlWord).map Row.mnemonic = some i.mnemonic

/-- R82: control words written out from the table, with component numbers and data as in log 1, decode to their rows. -/
def Obligations.WrittenOutFramesDecode : Prop :=
  decode Config.standard 0x3#176 = .error (.reservedBits .nand)
    ∧ decode Config.standard (0x3_00_00_000000#176) = .ok (.nand true true)
    ∧ decode Config.standard (0xFFFF1234_00_18_000000#176) = .ok (.add16 0x1234#16 0xFFFF#16)
    ∧ decode Config.standard (0x1_07_1A_000001#176) = .ok (.dffLatch 7#8 true)
    ∧ decode Config.standard (0x00FF_02_1C_000003#176) = .ok (.registerLoad 2#8 0x00FF#16)
    ∧ decode Config.standard (0x5555_00_1D_00000F#176) = .ok (.pcReset 0#8 0x5555#16 true true)
    ∧ decode Config.standard (0x0010_00_1D_00000B#176) = .ok (.pcLoad 0#8 0x0010#16 true)
    ∧ decode Config.standard (0x0100_00_1D_000009#176) = .ok (.pcInc 0#8 0x0100#16)
    ∧ decode Config.standard (0x5BEEF_00_1E_000003#176) = .ok (.ram8Write 0#8 0xBEEF#16 5#3)
    ∧ decode Config.standard (0x1234_00_25_01E000#176) = .ok (.memKbdWrite 0#8 0x1234#16 0x6000#15)
    ∧ decode Config.standard (0x0001_00_25_01E001#176) = .ok (.memUnmappedWrite 0#8 0x0001#16 0x6001#15)

/-- R81: an evaluation that does not fault drives exactly its component's output ports, each with a value of its
width; one that faults drives none (R302). -/
def Obligations.EvaluationDrivesItsOutputPorts : Prop :=
  ∀ (i : Instr) (s t : State), exec i s = .next t →
    (t.outputs.map (fun p => (p.1, portWidth p.2)) = i.component.outputs ∧ t.faultMark = s.faultMark)
      ∨ (t.outputs = [] ∧ ∃ f, t.faultMark = some f)

/-! ### The gate library (40_gates.md) -/

/-- R103 to R105: AND, OR and XOR drive their truth functions and leave everything else unchanged. -/
def Obligations.AndOrXorMatchTheirTruthTables : Prop :=
  ∀ (a b : Sig) (s : State),
    exec (.and a b) s = .next { s with outputs := [(.out, .sig (if a = true ∧ b = true then true else false))] }
      ∧ exec (.or a b) s = .next { s with outputs := [(.out, .sig (if a = true ∨ b = true then true else false))] }
      ∧ exec (.xor a b) s = .next { s with outputs := [(.out, .sig (if a = b then false else true))] }

/-- R101, R102, R111: NAND drives 0 only for two ones, NOT drives NAND(a, a), XOR16 the XOR at every position. The spec
marks NAND's table "[from general knowledge, not in source]", NOT's as derived from it, and XOR16 as its own choice
(D3); log 19. -/
def Obligations.NandNotXor16DriveTheirTruthFunctions : Prop :=
  ∀ (a b : Sig) (v w : Word) (s : State),
    exec (.nand a b) s = .next { s with outputs := [(.out, .sig (if a = true ∧ b = true then false else true))] }
      ∧ exec (.not a) s = .next { s with outputs := [(.out, .sig (if a = true then false else true))] }
      ∧ exec (.not a) s = exec (.nand a a) s
      ∧ ∃ z : Word, exec (.xor16 v w) s = .next { s with outputs := [(.out, .word z)] }
        ∧ ∀ k < 16, z.getLsbD k = (v.getLsbD k ^^ w.getLsbD k)

/-- R106, R107, R112, R113: `sel = 0` selects a, `sel = 1` selects b, at both widths; the other output is 0. The
polarity is the spec's own choice (D4, "[from general knowledge, not in source]"); log 19. -/
def Obligations.TwoWaySelectorsPickByPolarity : Prop :=
  ∀ (a b x sel : Sig) (v w y : Word) (s : State),
    exec (.mux a b sel) s = .next { s with outputs := [(.out, .sig (if sel = false then a else b))] }
      ∧ exec (.dmux x sel) s = .next { s with outputs :=
          [(.a, .sig (if sel = false then x else false)), (.b, .sig (if sel = true then x else false))] }
      ∧ exec (.mux16 v w sel) s = .next { s with outputs := [(.out, .word (if sel = false then v else w))] }
      ∧ exec (.dmux16 y sel) s = .next { s with outputs :=
          [(.a, .word (if sel = false then y else 0x0000#16)), (.b, .word (if sel = true then y else 0x0000#16))] }

/-- R108 to R110: NOT16, AND16 and OR16 apply the 1-bit gate at every position. -/
def Obligations.WordGatesActAtEveryPosition : Prop :=
  ∀ (a b : Word) (s : State), ∃ n x y : Word,
    exec (.not16 a) s = .next { s with outputs := [(.out, .word n)] }
      ∧ exec (.and16 a b) s = .next { s with outputs := [(.out, .word x)] }
      ∧ exec (.or16 a b) s = .next { s with outputs := [(.out, .word y)] }
      ∧ ∀ k < 16, n.getLsbD k = (!a.getLsbD k) ∧ x.getLsbD k = (a.getLsbD k && b.getLsbD k)
          ∧ y.getLsbD k = (a.getLsbD k || b.getLsbD k)

/-- R114: OR8WAY is the OR of all 8 bits: 1 when some bit is 1, and 0 only for "00000000". (The spec
derives it from the term "OR-reduction"; log 19.) -/
def Obligations.Or8wayIsZeroOnlyForZero : Prop :=
  ∀ (w : BitVec 8) (s : State), ∃ v : Sig,
    exec (.or8way w) s = .next { s with outputs := [(.out, .sig v)] }
      ∧ (v = true ↔ ∃ k < 8, w.getLsbD k = true) ∧ (v = false ↔ w = 0#8)

/-- R115 to R118: a multi-way multiplexer drives its input number `uval sel`. The
input that a selector names is the spec's own choice (D5); log 19. -/
def Obligations.MultiplexersPickInputNumberSel : Prop :=
  ∀ (a b c d e f g h : Sig) (A B C D E F G H : Word) (p : BitVec 2) (q : BitVec 3) (s : State),
    (∃ v, [a, b, c, d][uval p]? = some v
        ∧ exec (.mux4way a b c d p) s = .next { s with outputs := [(.out, .sig v)] })
      ∧ (∃ v, [A, B, C, D][uval p]? = some v
        ∧ exec (.mux4way16 A B C D p) s = .next { s with outputs := [(.out, .word v)] })
      ∧ (∃ v, [a, b, c, d, e, f, g, h][uval q]? = some v
        ∧ exec (.mux8way a b c d e f g h q) s = .next { s with outputs := [(.out, .sig v)] })
      ∧ (∃ v, [A, B, C, D, E, F, G, H][uval q]? = some v
        ∧ exec (.mux8way16 A B C D E F G H q) s = .next { s with outputs := [(.out, .word v)] })

/-- R119 to R122: a multi-way demultiplexer drives `in` on output number `uval sel` and 0 on every other. The
input that a selector names is the spec's own choice (D5); log 19. -/
def Obligations.DemultiplexersRouteToOutputNumberSel : Prop :=
  ∀ (x : Sig) (w : Word) (p : BitVec 2) (q : BitVec 3) (s : State),
    let bit := fun (n j : Nat) => PortValue.sig (if n = j then x else false)
    let word := fun (n j : Nat) => PortValue.word (if n = j then w else 0x0000#16)
    exec (.dmux4way x p) s = .next { s with outputs :=
        [(.a, bit (uval p) 0), (.b, bit (uval p) 1), (.c, bit (uval p) 2), (.d, bit (uval p) 3)] }
      ∧ exec (.dmux4way16 w p) s = .next { s with outputs :=
        [(.a, word (uval p) 0), (.b, word (uval p) 1), (.c, word (uval p) 2), (.d, word (uval p) 3)] }
      ∧ exec (.dmux8way x q) s = .next { s with outputs :=
        [(.a, bit (uval q) 0), (.b, bit (uval q) 1), (.c, bit (uval q) 2), (.d, bit (uval q) 3),
          (.e, bit (uval q) 4), (.f, bit (uval q) 5), (.g, bit (uval q) 6), (.h, bit (uval q) 7)] }
      ∧ exec (.dmux8way16 w q) s = .next { s with outputs :=
        [(.a, word (uval q) 0), (.b, word (uval q) 1), (.c, word (uval q) 2), (.d, word (uval q) 3),
          (.e, word (uval q) 4), (.f, word (uval q) 5), (.g, word (uval q) 6), (.h, word (uval q) 7)] }

/-- R123, the gates of at most two data inputs and OR8WAY: the networks from NAND compute the operations' outputs. All
but NOT's are "[from general knowledge, not in source]"; log 19. -/
def Obligations.GateNetworksComputeTheGates : Prop :=
  ∀ (a b sel : Sig) (A B : Word) (w : BitVec 8) (s : State),
    exec (.not a) s = .next (s.drive (outSig (netNot a)))
      ∧ exec (.and a b) s = .next (s.drive (outSig (netAnd a b)))
      ∧ exec (.or a b) s = .next (s.drive (outSig (netOr a b)))
      ∧ exec (.xor a b) s = .next (s.drive (outSig (netXor a b)))
      ∧ exec (.mux a b sel) s = .next (s.drive (outSig (netMux a b sel)))
      ∧ exec (.dmux a sel) s = .next (s.drive (sigPorts [(netDmux a sel).1, (netDmux a sel).2]))
      ∧ exec (.not16 A) s = .next (s.drive (outWord (each16 netNot A)))
      ∧ exec (.and16 A B) s = .next (s.drive (outWord (pairs16 netAnd A B)))
      ∧ exec (.or16 A B) s = .next (s.drive (outWord (pairs16 netOr A B)))
      ∧ exec (.xor16 A B) s = .next (s.drive (outWord (pairs16 netXor A B)))
      ∧ exec (.mux16 A B sel) s = .next (s.drive (outWord (netMux16 A B sel)))
      ∧ exec (.dmux16 A sel) s = .next (s.drive (wordPorts [(netDmux16 A sel).1, (netDmux16 A sel).2]))
      ∧ exec (.or8way w) s = .next (s.drive (outSig (netOr8 w)))

/-- R123, R83: the trees of two-way networks, with the most significant selector bit at the top, compute the
multi-way gates' outputs. The networks are "[from general knowledge, not in source]"; log 19. -/
def Obligations.SelectorTreesComputeTheMultiwayGates : Prop :=
  ∀ (a b c d e f g h : Sig) (A B C D E F G H : Word) (p : BitVec 2) (q : BitVec 3) (s : State),
    exec (.mux4way a b c d p) s = .next (s.drive (outSig (tree4 netMux a b c d (p.getLsbD 1) (p.getLsbD 0))))
      ∧ exec (.mux4way16 A B C D p) s
        = .next (s.drive (outWord (tree4 netMux16 A B C D (p.getLsbD 1) (p.getLsbD 0))))
      ∧ exec (.mux8way a b c d e f g h q) s
        = .next (s.drive (outSig (tree8 netMux a b c d e f g h (q.getLsbD 2) (q.getLsbD 1) (q.getLsbD 0))))
      ∧ exec (.mux8way16 A B C D E F G H q) s
        = .next (s.drive (outWord (tree8 netMux16 A B C D E F G H (q.getLsbD 2) (q.getLsbD 1) (q.getLsbD 0))))
      ∧ exec (.dmux4way a p) s = .next (s.drive (sigPorts (spread4 netDmux a (p.getLsbD 1) (p.getLsbD 0))))
      ∧ exec (.dmux4way16 A p) s = .next (s.drive (wordPorts (spread4 netDmux16 A (p.getLsbD 1) (p.getLsbD 0))))
      ∧ exec (.dmux8way a q) s
        = .next (s.drive (sigPorts (spread8 netDmux a (q.getLsbD 2) (q.getLsbD 1) (q.getLsbD 0))))
      ∧ exec (.dmux8way16 A q) s
        = .next (s.drive (wordPorts (spread8 netDmux16 A (q.getLsbD 2) (q.getLsbD 1) (q.getLsbD 0))))

/-- R100, R11: a gate or adder is a pure function of its inputs: in any two states it drives the same outputs, and
does nothing else. -/
def Obligations.GatesArePureFunctions : Prop :=
  ∀ (i : Instr) (s s' : State), i.component.sequential = false → i.component ≠ .keyboard →
    ∃ o, exec i s = .next { s with outputs := o } ∧ exec i s' = .next { s' with outputs := o }

/-! ### Arithmetic (41_arithmetic.md) -/

/-- R140: a half-adder gives the XOR and the AND, so that 2·carry + sum = a + b; nothing else changes. -/
def Obligations.HalfAdderGivesSumAndCarry : Prop :=
  ∀ (a b : Sig) (s : State), ∃ sum carry : Sig,
    exec (.halfadder a b) s = .next { s with outputs := [(.sum, .sig sum), (.carry, .sig carry)] }
      ∧ sum = (a ^^ b) ∧ carry = (a && b) ∧ 2 * carry.toNat + sum.toNat = a.toNat + b.toNat

/-- R141: a full-adder gives 2·carry + sum = a + b + c through two half-adders and an OR, whose inputs are never both 1.
The OR is "[from general knowledge, not in source]"; log 19. -/
def Obligations.FullAdderGivesSumAndCarry : Prop :=
  ∀ (a b c : Sig) (s : State), ∃ sum carry : Sig,
    exec (.fulladder a b c) s = .next { s with outputs := [(.sum, .sig sum), (.carry, .sig carry)] }
      ∧ sum = ((a ^^ b) ^^ c) ∧ carry = (a && b || a && c || b && c)
      ∧ (sum, carry) = netFull a b c ∧ 2 * carry.toNat + sum.toNat = a.toNat + b.toNat + c.toNat
      ∧ ¬((netHalf a b).2 = true ∧ (netHalf (netHalf a b).1 c).2 = true)

/-- R142: ADD16 drives what the ripple-carry network of full-adders gives, least significant position first, the last
carry discarded; it is the sum modulo 2^16, for unsigned and for two's-complement values; no fault is raised. The
full-adder's OR and the networks from NAND are "[from general knowledge, not in source]" (R141, R123; log 19). -/
def Obligations.RippleCarryNetworkComputesAdd16 : Prop :=
  ∀ (a b : Word) (s : State), ∃ v : Word,
    exec (.add16 a b) s = .next { s with outputs := [(.out, .word v)] } ∧ v = netAdd16 a b
      ∧ uval v = (uval a + uval b) % 2 ^ 16 ∧ sval v = (sval a + sval b).bmod (2 ^ 16)

/-- R143: INC16 is ADD16 with the constant one. -/
def Obligations.Inc16AddsOne : Prop :=
  ∀ (w : Word) (s : State), ∃ v : Word,
    exec (.inc16 w) s = .next { s with outputs := [(.out, .word v)] }
      ∧ exec (.add16 w 0x0001#16) s = .next { s with outputs := [(.out, .word v)] }
      ∧ uval v = (uval w + 1) % 2 ^ 16

/-- R145: INC16 of NOT16 negates every word but 0x8000, which it leaves as it is. -/
def Obligations.ComplementPlusOneNegates : Prop :=
  ∀ (w : Word) (s : State), ∃ n v : Word, ∃ t,
    exec (.not16 w) s = .next t ∧ t.outputs = [(.out, .word n)]
      ∧ exec (.inc16 n) t = .next { t with outputs := [(.out, .word v)] }
      ∧ (w ≠ 0x8000#16 → sval v = -sval w) ∧ (w = 0x8000#16 → v = 0x8000#16)

/-! ### Sequential primitives (42_sequential.md) -/

/-- R162, R163: DFF.LATCH commits and drives the input; DFF.HOLD drives the stored bit and commits nothing. This says what
the operations do whatever the clock is; that a step runs DFF.LATCH in a high phase only is log 5. -/
def Obligations.DffLatchesAndHolds : Prop :=
  ∀ (i : Inst) (x : Sig) (s : State),
    (∃ t, exec (.dffLatch i x) s = .next t ∧ t.readBit (dffRef i) = x ∧ t.outputs = [(.out, .sig x)]
        ∧ s.ChangesOnlyBit (dffRef i) t)
      ∧ exec (.dffHold i x) s = .next { s with outputs := [(.out, .sig (s.readBit (dffRef i)))] }

/-- R164, R165: BIT.LOAD commits and drives the input; BIT.HOLD drives the stored bit and commits nothing. -/
def Obligations.BitLoadsAndHolds : Prop :=
  ∀ (i : Inst) (x load clock : Sig) (s : State),
    (∃ t, exec (.bitLoad i x) s = .next t ∧ t.readBit (bitRef i) = x ∧ t.outputs = [(.out, .sig x)]
        ∧ s.ChangesOnlyBit (bitRef i) t)
      ∧ exec (.bitHold i x load clock) s = .next { s with outputs := [(.out, .sig (s.readBit (bitRef i)))] }

/-- R166: REGISTER.LOAD commits all 16 bits, drives the word, and changes nothing else. -/
def Obligations.RegisterLoadCommitsTheWord : Prop :=
  ∀ (i : Inst) (x : Word) (s : State), ∃ t, exec (.registerLoad i x) s = .next t ∧ t.readWord (registerRef i) = x
    ∧ t.outputs = [(.out, .word x)] ∧ s.ChangesOnlyWord (registerRef i) t

/-- R167: REGISTER.HOLD drives the stored word and commits nothing; a loaded value is read back unchanged across any
number of other evaluations, until the next load. -/
def Obligations.RegisterHoldsUntilTheNextLoad : Prop :=
  ∀ (i : Inst) (x : Word) (load clock : Sig),
    (∀ s : State, exec (.registerHold i x load clock) s
        = .next { s with outputs := [(.out, .word (s.readWord (registerRef i)))] })
      ∧ ∀ (v : Word) (ops : List Instr) (s u t : State),
        exec (.registerLoad i v) s = .next u → (∀ op ∈ ops, ∀ w, op ≠ .registerLoad i w) → execAll ops u = some t →
          exec (.registerHold i x load clock) t = .next { t with outputs := [(.out, .word v)] }

/-- R168, R401, R402: PC.RESET gives 0x0000, whatever its other inputs are, and changes nothing else. That it commits in
the high phase is the spec's own choice (D10); log 19. -/
def Obligations.PcResetForcesZero : Prop :=
  ∀ (i : Inst) (x : Word) (load inc : Sig) (s : State), ∃ t, exec (.pcReset i x load inc) s = .next t
    ∧ t.readWord (pcRef i) = 0x0000#16 ∧ t.outputs = [(.out, .word 0x0000#16)] ∧ s.ChangesOnlyWord (pcRef i) t

/-- R169 to R171: PC.LOAD gives the input, PC.INC the held count plus one modulo 2^16, PC.HOLD the held count; nothing
else changes. -/
def Obligations.PcLoadIncHoldGiveTheNextCount : Prop :=
  ∀ (i : Inst) (x : Word) (reset load inc clock : Sig) (s : State),
    (∃ t, exec (.pcLoad i x inc) s = .next t ∧ t.readWord (pcRef i) = x
        ∧ t.outputs = [(.out, .word x)] ∧ s.ChangesOnlyWord (pcRef i) t)
      ∧ (∃ t v, exec (.pcInc i x) s = .next t ∧ uval v = (uval (s.readWord (pcRef i)) + 1) % 2 ^ 16
        ∧ t.readWord (pcRef i) = v ∧ t.outputs = [(.out, .word v)] ∧ s.ChangesOnlyWord (pcRef i) t)
      ∧ exec (.pcHold i x reset load inc clock) s
        = .next { s with outputs := [(.out, .word (s.readWord (pcRef i)))] }

/-- R88, and R172's priority: whatever reset, load, inc and clock are, the PC row they select computes
`reset ? 0 : load ? in : inc ? count + 1 : count` in a high phase and holds in a low one; `out` shows the count after
the commit. That a reset in a low phase has no effect is the spec's own choice (D10; log 19). -/
def Obligations.PcPriorityDecidesTheNextCount : Prop :=
  ∀ (cfg : Config) (i : Inst) (x : Word) (reset load inc clock : Sig) (s : State), ∃ op t,
    select cfg i .pc [x.toNat, reset.toNat, load.toNat, inc.toNat, clock.toNat] = some op
      ∧ exec op s = .next t ∧ s.ChangesOnlyWord (pcRef i) t
      ∧ t.outputs = [(.out, .word (t.readWord (pcRef i)))]
      ∧ t.readWord (pcRef i)
        = (if clock = true then
            if reset = true then 0x0000#16 else if load = true then x
            else if inc = true then s.readWord (pcRef i) + 1#16 else s.readWord (pcRef i)
          else s.readWord (pcRef i))

/-- R161 to R172: the selected DFF, BIT, REGISTER and PC rows do what the circuits do: a DFF with its control input, a
BIT as a DFF with `c = AND(load, clock)` (D9), a REGISTER as 16 such BITs, a PC as the REGISTER with the multiplexers of
R172 ("[from general knowledge, not in source]"); log 19. -/
def Obligations.StorageRowsDoWhatTheCircuitsDo : Prop :=
  ∀ (cfg : Config) (i : Inst) (x c reset load inc clock : Sig) (w : Word) (s : State),
    (∃ op t, select cfg i .dff [x.toNat, c.toNat] = some op ∧ exec op s = .next t
        ∧ t.readBit (dffRef i) = dffCircuit (s.readBit (dffRef i)) x c)
      ∧ (∃ op t, select cfg i .bit [x.toNat, load.toNat, clock.toNat] = some op ∧ exec op s = .next t
        ∧ t.readBit (bitRef i) = bitCircuit (s.readBit (bitRef i)) x load clock)
      ∧ (∃ op t, select cfg i .register [w.toNat, load.toNat, clock.toNat] = some op ∧ exec op s = .next t
        ∧ t.readWord (registerRef i) = registerCircuit (s.readWord (registerRef i)) w load clock)
      ∧ ∃ op t, select cfg i .pc [w.toNat, reset.toNat, load.toNat, inc.toNat, clock.toNat] = some op
        ∧ exec op s = .next t
        ∧ t.readWord (pcRef i) = pcCircuit (s.readWord (pcRef i)) w reset load inc clock

/-- R408, R62, R410, R160 point 2: nothing is committed in a low phase. An operation whose clock value is 0 commits
nothing; an evaluation that ends in a low phase commits nothing; and a step that changes a stored value other than a
keyboard's ends in a high phase. That DFF.LATCH, which has no clock port, takes place in a high phase is log 5; the
clock's position is the model's (log 4). -/
def Obligations.LowPhaseCommitsNothing : Prop :=
  (∀ (i : Instr) (s t : State), clockOf i = some false → exec i s = .next t → s.SameStored t)
    ∧ (∀ (i : Instr) (s t : State), evaluate i s = .next t → t.env.phase = .low → s.SameStored t)
    ∧ ∀ s t : State, step s = .next t →
      (∀ e : WordRef, e.bank ≠ .kbd → e.bank ≠ .memKbd → t.readWord e ≠ s.readWord e → t.env.phase = .high)
        ∧ ∀ e : BitRef, t.readBit e ≠ s.readBit e → t.env.phase = .high

/-! ### The memory hierarchy (43_memory_hierarchy.md) -/

/-- R201, R203, R205, R207, R209, R211: a WRITE commits the word at its address, drives it, and changes nothing else. The
screen's size and its plain word store are the spec's own choices (D12, D24; log 19). -/
def Obligations.MemoryWritesCommitOneWord : Prop :=
  ∀ (i : Inst) (x : Word) (a3 : BitVec 3) (a6 : BitVec 6) (a9 : BitVec 9) (a12 : BitVec 12) (a14 : BitVec 14)
    (s : State),
    let commits := fun (op : Instr) (e : WordRef) => ∃ t, exec op s = .next t ∧ t.readWord e = x
      ∧ t.outputs = [(.out, .word x)] ∧ s.ChangesOnlyWord e t
    commits (.ram8Write i x a3) ⟨.ram8, i, a3.setWidth 15⟩
      ∧ commits (.ram64Write i x a6) ⟨.ram64, i, a6.setWidth 15⟩
      ∧ commits (.ram512Write i x a9) ⟨.ram512, i, a9.setWidth 15⟩
      ∧ commits (.ram4kWrite i x a12) ⟨.ram4k, i, a12.setWidth 15⟩
      ∧ commits (.ram16kWrite i x a14) ⟨.ram16k, i, a14.setWidth 15⟩
      ∧ commits (.screenWrite i x a14) ⟨.screen, i, a14.setWidth 15⟩

/-- R202, R204, R206, R208, R210, R212: a READ drives the word at its address and changes nothing. -/
def Obligations.MemoryReadsDriveTheStoredWord : Prop :=
  ∀ (i : Inst) (x : Word) (a3 : BitVec 3) (a6 : BitVec 6) (a9 : BitVec 9) (a12 : BitVec 12) (a14 : BitVec 14)
    (load clock : Sig) (s : State),
    let shows := fun (op : Instr) (e : WordRef) =>
      exec op s = .next { s with outputs := [(.out, .word (s.readWord e))] }
    shows (.ram8Read i x a3 load clock) ⟨.ram8, i, a3.setWidth 15⟩
      ∧ shows (.ram64Read i x a6 load clock) ⟨.ram64, i, a6.setWidth 15⟩
      ∧ shows (.ram512Read i x a9 load clock) ⟨.ram512, i, a9.setWidth 15⟩
      ∧ shows (.ram4kRead i x a12 load clock) ⟨.ram4k, i, a12.setWidth 15⟩
      ∧ shows (.ram16kRead i x a14 load clock) ⟨.ram16k, i, a14.setWidth 15⟩
      ∧ shows (.screenRead i x a14 load clock) ⟨.screen, i, a14.setWidth 15⟩

/-- R51: after a write of W at K, a read at K gives W and a read at any other address gives what it gave before. -/
def Obligations.AddressesDoNotAlias : Prop :=
  ∀ (i : Inst) (w x : Word) (load clock : Sig) (s : State),
    (∀ a b : BitVec 3, ∃ t, exec (.ram8Write i w a) s = .next t ∧ exec (.ram8Read i x b load clock) t
        = .next { t with outputs := [(.out, .word (if b = a then w else s.readWord (ram8Ref i b)))] })
      ∧ (∀ a b : BitVec 6, ∃ t, exec (.ram64Write i w a) s = .next t ∧ exec (.ram64Read i x b load clock) t
        = .next { t with outputs := [(.out, .word (if b = a then w else s.readWord (ram64Ref i b)))] })
      ∧ (∀ a b : BitVec 9, ∃ t, exec (.ram512Write i w a) s = .next t ∧ exec (.ram512Read i x b load clock) t
        = .next { t with outputs := [(.out, .word (if b = a then w else s.readWord (ram512Ref i b)))] })
      ∧ (∀ a b : BitVec 12, ∃ t, exec (.ram4kWrite i w a) s = .next t ∧ exec (.ram4kRead i x b load clock) t
        = .next { t with outputs := [(.out, .word (if b = a then w else s.readWord (ram4kRef i b)))] })
      ∧ (∀ a b : BitVec 14, ∃ t, exec (.ram16kWrite i w a) s = .next t ∧ exec (.ram16kRead i x b load clock) t
        = .next { t with outputs := [(.out, .word (if b = a then w else s.readWord (ram16kRef i b)))] })

/-- R215, R216: MEM.RAM.WRITE and MEM.RAM.READ act on word `address[13:0]` of the RAM, which is the address itself in
the RAM region. -/
def Obligations.MainMemoryRamAccess : Prop :=
  ∀ (i : Inst) (x : Word) (a : BitVec 15) (load clock : Sig) (s : State), s.config.region a = .ram →
    ∃ e : WordRef, e.bank = .memRam ∧ e.i = i ∧ uval e.addr = uval a ∧ uval e.addr = uval (a.extractLsb' 0 14)
      ∧ (∃ t, exec (.memRamWrite i x a) s = .next t ∧ t.readWord e = x ∧ t.outputs = [(.out, .word x)]
        ∧ s.ChangesOnlyWord e t)
      ∧ exec (.memRamRead i x a load clock) s = .next { s with outputs := [(.out, .word (s.readWord e))] }

/-- R217, R218: MEM.SCREEN.WRITE and MEM.SCREEN.READ act on word `uval(address) - SCREEN_BASE` of the screen. -/
def Obligations.MainMemoryScreenAccess : Prop :=
  ∀ (i : Inst) (x : Word) (a : BitVec 15) (load clock : Sig) (s : State), s.config.region a = .screen →
    ∃ e : WordRef, e.bank = .memScreen ∧ e.i = i ∧ uval e.addr + s.config.screenBase = uval a
      ∧ uval e.addr < s.config.screenWords
      ∧ (∃ t, exec (.memScreenWrite i x a) s = .next t ∧ t.readWord e = x ∧ t.outputs = [(.out, .word x)]
        ∧ s.ChangesOnlyWord e t)
      ∧ exec (.memScreenRead i x a load clock) s = .next { s with outputs := [(.out, .word (s.readWord e))] }

/-- R213, R219, R220: KEYBOARD.READ, MEM.KBD.READ and MEM.KBD.WRITE drive the keyboard value and commit nothing. -/
def Obligations.KeyboardAccessNeverCommits : Prop :=
  ∀ (i : Inst) (x : Word) (a : BitVec 15) (load clock : Sig) (s : State),
    exec (.keyboardRead i) s = .next { s with outputs := [(.out, .word (s.readWord (kbdRef i)))] }
      ∧ exec (.memKbdWrite i x a) s = .next { s with outputs := [(.out, .word (s.readWord (memKbdRef i)))] }
      ∧ exec (.memKbdRead i x a load clock) s
        = .next { s with outputs := [(.out, .word (s.readWord (memKbdRef i)))] }

/-- R221: a write in no region faults under `UNMAPPED_WRITE = fault`, committing nothing and driving nothing, and drives
a drawn word under `ignore`, committing nothing. The
spec's own choice (D13; log 19); the fault's next state is the model's (log 11). -/
def Obligations.UnmappedWriteFaultsOrIsIgnored : Prop :=
  ∀ (i : Inst) (x : Word) (a : BitVec 15) (s : State),
    (s.config.unmappedWrite = .fault → exec (.memUnmappedWrite i x a) s
        = .next { s with outputs := [], faultMark := some (.unmapped a) })
      ∧ (s.config.unmappedWrite = .ignore → exec (.memUnmappedWrite i x a) s
        = .next { s with outputs := [(.out, .word (Config.freeWord s.draws))], draws := s.draws + 1 })

/-- R222: a read in no region drives a drawn word under `UNMAPPED_READ = draw`, a new draw at each read, and faults
under `fault`; it commits nothing. The spec's own choice (D13; log 19); the draws are the model's (log 10). -/
def Obligations.UnmappedReadDrawsOrFaults : Prop :=
  ∀ (i : Inst) (x : Word) (a : BitVec 15) (load clock : Sig) (s : State),
    (s.config.unmappedRead = .draw → exec (.memUnmappedRead i x a load clock) s
        = .next { s with outputs := [(.out, .word (Config.freeWord s.draws))], draws := s.draws + 1 })
      ∧ (s.config.unmappedRead = .fault → exec (.memUnmappedRead i x a load clock) s
        = .next { s with outputs := [], faultMark := some (.unmapped a) })

/-- R55: the regions, by the addresses under any legal parameters, and by the address bits under the defaults. The map is
the spec's own choice (D12; logs 9, 19). -/
def Obligations.AddressMapPartitionsTheSpace : Prop :=
  (∀ (cfg : Config) (a : BitVec 15), cfg.wf = true →
      (cfg.region a = .ram ↔ uval a < 16384)
        ∧ (cfg.region a = .screen ↔ cfg.screenBase ≤ uval a ∧ uval a < cfg.screenBase + cfg.screenWords)
        ∧ (cfg.region a = .keyboard ↔ uval a = cfg.kbdAddr))
    ∧ ∀ a : BitVec 15,
      (Config.standard.region a = .ram ↔ a.getLsbD 14 = false)
        ∧ (Config.standard.region a = .screen ↔ a.getLsbD 14 = true ∧ a.getLsbD 13 = false)
        ∧ (Config.standard.region a = .keyboard ↔ a = 0x6000#15)
        ∧ (Config.standard.region a = .unmapped ↔ a.getLsbD 14 = true ∧ a.getLsbD 13 = true ∧ a ≠ 0x6000#15)

/-- R214: for every address and every `load` and `clock`, MEMORY performs one well-formed operation of the region the
address decodes to; the arrays of the regions not selected do not change, and nothing changes unless both are 1.
That an unmapped access which faults also answers a next state, with the fault mark set, is log 11. -/
def Obligations.MemoryActsInTheSelectedRegionOnly : Prop :=
  ∀ (i : Inst) (x : Word) (a : BitVec 15) (load clock : Sig) (s : State), ∃ op t,
    select s.config i .memory [x.toNat, a.toNat, load.toNat, clock.toNat] = some op
      ∧ op.wellFormed s.config = true ∧ exec op s = .next t
      ∧ (s.config.region a ≠ .ram → ∀ e, e.bank = .memRam → t.readWord e = s.readWord e)
      ∧ (s.config.region a ≠ .screen → ∀ e, e.bank = .memScreen → t.readWord e = s.readWord e)
      ∧ (∀ e, e.bank ≠ .memRam → e.bank ≠ .memScreen → t.readWord e = s.readWord e)
      ∧ (∀ b, t.readBit b = s.readBit b)
      ∧ ((load && clock) = false → s.SameStored t)

/-- R84: the RAM levels take the high-order address bits first, 3 bits a level, but 2 at RAM16K's top. The spec's
own choice (D11, C3; log 19). -/
def Obligations.RamLevelsTakeHighOrderBitsFirst : Prop :=
  (∀ a : BitVec 3, ramDigits (ramLevels .ram8) (uval a) = [uval a])
    ∧ (∀ a : BitVec 6, ramDigits (ramLevels .ram64) (uval a)
        = [uval (a.extractLsb' 3 3), uval (a.extractLsb' 0 3)])
    ∧ (∀ a : BitVec 9, ramDigits (ramLevels .ram512) (uval a)
        = [uval (a.extractLsb' 6 3), uval (a.extractLsb' 3 3), uval (a.extractLsb' 0 3)])
    ∧ (∀ a : BitVec 12, ramDigits (ramLevels .ram4k) (uval a)
        = [uval (a.extractLsb' 9 3), uval (a.extractLsb' 6 3), uval (a.extractLsb' 3 3), uval (a.extractLsb' 0 3)])
    ∧ (∀ a : BitVec 14, ramDigits (ramLevels .ram16k) (uval a)
        = [uval (a.extractLsb' 12 2), uval (a.extractLsb' 9 3), uval (a.extractLsb' 6 3), uval (a.extractLsb' 3 3),
            uval (a.extractLsb' 0 3)])

/-- R200: by induction over the levels, a tree of decoders, sub-blocks and multiplexers behaves as one array of
its leaves. That the high-order bits select is the spec's own choice (D11; log 19). -/
def Obligations.RamTreeBehavesAsAnArray : Prop :=
  ∀ (ws : List Nat) (tree : RamTree) (x : Word) (i : Nat) (load clock : Sig),
    tree.shaped ws → i < 2 ^ ws.sum →
      (tree.eval x clock (ramDigits ws i) load).1.shaped ws
        ∧ ((tree.eval x clock (ramDigits ws i) load).1.words ws.length,
            (tree.eval x clock (ramDigits ws i) load).2)
          = ramArray (tree.words ws.length) x i load clock

/-- R200: the RAM operations of the model, which act on arrays, are simulated by the trees of RAM8 to RAM16K.
That the high-order bits select is the spec's own choice (D11; log 19). -/
def Obligations.RamOperationsSimulateTheTrees : Prop :=
  ∀ i : Inst,
    RamSimulates (ramLevels .ram8) (ram8Ref i) (.ram8Write i) (.ram8Read i)
      ∧ RamSimulates (ramLevels .ram64) (ram64Ref i) (.ram64Write i) (.ram64Read i)
      ∧ RamSimulates (ramLevels .ram512) (ram512Ref i) (.ram512Write i) (.ram512Read i)
      ∧ RamSimulates (ramLevels .ram4k) (ram4kRef i) (.ram4kWrite i) (.ram4kRead i)
      ∧ RamSimulates (ramLevels .ram16k) (ram16kRef i) (.ram16kWrite i) (.ram16kRead i)

/-- R59: repeating a memory evaluation with the same inputs leaves the stored values as one evaluation left them.
(D15, D24: the spec's own choices; log 19.) -/
def Obligations.RepeatingAMemoryEvaluationChangesNothing : Prop :=
  ∀ (i : Instr) (s t u : State), i.component ≠ .pc → exec i s = .next t → exec i t = .next u → t.SameStored u

/-! ### The whole machine -/

/-- R80, R307: every operation, in every state, completes with a next state. (An unmapped access may complete in
the fault mark: log 11.) -/
def Obligations.EveryOperationCompletes : Prop :=
  ∀ (i : Instr) (s : State), ∃ t, exec i s = .next t

/-- R32, R30: a stored value changes only by an operation that the state table names as its writer, evaluated on the
instance that holds it. -/
def Obligations.OnlyTheNamedWritersChangeAnElement : Prop :=
  ∀ (i : Instr) (s t : State), exec i s = .next t →
    (∀ e : WordRef, t.readWord e ≠ s.readWord e → i.mnemonic ∈ wordWriters e.bank ∧ e.i = i.inst)
      ∧ ∀ e : BitRef, t.readBit e ≠ s.readBit e → i.mnemonic ∈ bitWriters e.bank ∧ e.i = i.inst

/-- R407, D19: two evaluations of different instances, with inputs fixed before either, leave the same stored values in
either order. The discipline is the spec's own choice (log 19). -/
def Obligations.EvaluationOrderDoesNotMatterForFixedInputs : Prop :=
  ∀ (i j : Instr) (s s₁ s₂ t₁ t₂ : State), (i.component, i.inst) ≠ (j.component, j.inst) →
    exec i s = .next s₁ → exec j s₁ = .next s₂ → exec j s = .next t₁ → exec i t₁ = .next t₂ → s₂.SameStored t₂

/-- R80, R405: the step of a running machine whose next input is a frame that decodes runs exactly that operation: the
input is consumed, the clock takes the position of the operation's clock value, a sequential instance is marked as
evaluated, and `exec` gives the effect.
The frame (log 1), the list of inputs (log 3) and how the clock follows the operation (logs 4, 5) are the model's. That a
second evaluation in a phase is refused is the spec's own choice (D8; log 19); that it is refused also where a MEMORY's
unmapped access would fault, and `F_UNMAPPED` is not raised, is the model's (log 15). -/
def Obligations.StepRunsTheDecodedOperation : Prop :=
  ∀ (s : State) (f : Frame) (rest : List Input) (i : Instr),
    s.faultMark = none → s.env.stopped = false → s.env.schedule = .frame f :: rest → decode s.config f = .ok i →
      let v := { s.env with schedule := rest }.forClock (clockOf i)
      step s =
        if i.component.sequential = true then
          if (i.component, i.inst) ∈ v.evaluated then .refused (.multiEval i.component i.inst v.phase)
          else exec i { s with env := { v with evaluated := (i.component, i.inst) :: v.evaluated } }
        else exec i { s with env := v }

/-- R405: a second evaluation of a sequential instance with the same clock value, or with none (DFF.HOLD), with no clock
move between, is refused as `REFUSE_MULTI_EVAL`. The spec's own choice (D8; log 19); the position of the clock is the
model's (log 4), and so is the refusal of an unmapped access that would fault (log 15). -/
def Obligations.SecondEvaluationInAPhaseIsRefused : Prop :=
  ∀ (i j : Instr) (s t : State), i.component.sequential = true → evaluate i s = .next t →
    j.component = i.component → j.inst = i.inst → clockOf j = clockOf i ∨ clockOf j = none →
      evaluate j t = .refused (.multiEval i.component i.inst t.env.phase)

/-- R403: time does not run back, a step enters at most one new cycle, and the list of evaluated instances is kept
while the clock stands still. The spec's own choice (D18; log 19), in the model's clock (log 4). -/
def Obligations.ClockOnlyMovesForward : Prop :=
  ∀ s t : State, step s = .next t →
    s.env.time ≤ t.env.time ∧ t.env.cycle ≤ s.env.cycle + 1
      ∧ (t.env.time = s.env.time → ∀ x ∈ s.env.evaluated, x ∈ t.env.evaluated)

/-- R403, R29: phases alternate low, high within a cycle, and an evaluation takes place in the phase that its clock value
shows (DFF.LATCH: log 5). The spec's own choice (D18; log 19), in the model's clock (log 4). -/
def Obligations.PhasesAlternate : Prop :=
  (∀ v : Env, (v.phase = .between → v.advance.phase = .low ∧ v.advance.cycle = v.cycle + 1)
      ∧ (v.phase = .low → v.advance.phase = .high ∧ v.advance.cycle = v.cycle)
      ∧ (v.phase = .high → v.advance.phase = .between ∧ v.advance.cycle = v.cycle)
      ∧ v.advance.evaluated = [])
    ∧ ∀ (i : Instr) (s t : State), evaluate i s = .next t →
      (clockOf i = some true → t.env.phase = .high) ∧ (clockOf i = some false → t.env.phase = .low)
        ∧ t.env.phase ≠ .between

/-- R87, R303, R302: an untyped evaluation with a digit other than 0 and 1 raises `F_SIGNAL`, naming a port that holds
one, even if widths are wrong too; one with legal digits and a wrong width raises `F_WIDTH`, naming the port and the
width given. Nothing is committed or driven. The order is the spec's own choice (D17; log 19); that
all ports are listed by name, and which port is named, are the model's (logs 15, 16). -/
def Obligations.IllegalInputsFaultAtTheBoundary : Prop :=
  ∀ (s : State) (c : Component) (i : Inst) (values : List (PortName × RawValue)),
    values.map Prod.fst = (c.inputs s.config).map Prod.fst →
      ((∃ v ∈ values, ∃ d ∈ v.2, 1 < d) →
          ∃ v ∈ values, (∃ d ∈ v.2, 1 < d) ∧ runInput (.ports c i values) s
            = .next { s with outputs := [], faultMark := some (.signal c v.1) })
        ∧ ((∀ v ∈ values, ∀ d ∈ v.2, d ≤ 1) →
          values.map (fun v => (v.1, v.2.length)) ≠ c.inputs s.config →
          ∃ v ∈ values, (v.1, v.2.length) ∉ c.inputs s.config ∧ runInput (.ports c i values) s
            = .next { s with outputs := [], faultMark := some (.width c v.1 v.2.length) })

/-- R80, R81, R87: an untyped evaluation whose digits and widths are legal runs the operation they spell. The list's form is the
model's (log 16). -/
def Obligations.LegalPortsRunTheOperation : Prop :=
  ∀ (s : State) (i : Instr), i.wellFormed s.config = true →
    runInput (.ports i.component i.inst (rawPorts s.config i)) s = evaluate i s

/-- R302: a block with a fault mark takes no further step. The spec's own choice (D16; log 19), in the model's
form (log 11). -/
def Obligations.FaultedBlockTakesNoStep : Prop :=
  ∀ (s : State) (f : Fault), s.faultMark = some f → step s = .fault f

/-- R311, R411: the host's moves between cycles, and the refusal of every other: reading shows the committed value,
writing changes a keyboard value only, stopping ends the run. The spec's own choice (D21; log 19), in the model's form (log 17). -/
def Obligations.HostMovesOnlyBetweenCycles : Prop :=
  ∀ (s : State) (m : HostMove) (e : WordRef) (b : BitRef) (v : Word) (q : Sig),
    (s.env.phase ≠ .between → runInput (.host m) s = .refused .hostDuringCycle)
      ∧ (s.env.phase = .between →
        (e.inRange s.config = true → runInput (.host (.readWord e)) s
          = .next { s with env := { s.env with inspected := some (.word (s.readWord e)) } })
        ∧ runInput (.host (.readBit b)) s
          = .next { s with env := { s.env with inspected := some (.sig (s.readBit b)) } }
        ∧ ((e.bank = .kbd ∨ e.bank = .memKbd) → e.addr = 0 →
          ∃ t, runInput (.host (.writeWord e v)) s = .next t ∧ t.readWord e = v ∧ t.outputs = s.outputs
            ∧ s.ChangesOnlyWord e t)
        ∧ (e.bank ≠ .kbd → e.bank ≠ .memKbd → runInput (.host (.writeWord e v)) s = .refused .hostWrite)
        ∧ runInput (.host (.writeBit b q)) s = .refused .hostWrite
        ∧ ∃ t, runInput (.host .stop) s = .next t ∧ t.store = s.store
          ∧ (t.faultMark = none → step t = .refused .runEnded))

/-- R27, R32, R213: a keyboard value changes only by a host move, between cycles. -/
def Obligations.OnlyTheHostChangesAKeyboardValue : Prop :=
  ∀ (s t : State) (e : WordRef), e.bank = .kbd ∨ e.bank = .memKbd → step s = .next t →
    t.readWord e ≠ s.readWord e →
      s.env.phase = .between ∧ ∃ rest, s.env.schedule = .host (.writeWord e (t.readWord e)) :: rest

/-- R5: no step changes the parameters. -/
def Obligations.StepsKeepTheParameters : Prop :=
  ∀ s t : State, step s = .next t → t.config = s.config

/-- R314, R20: with no input to come the block waits unchanged. That such a step exists is the model's (log 3). -/
def Obligations.WaitingChangesNothing : Prop :=
  ∀ s : State, s.faultMark = none → s.env.stopped = false → s.env.schedule = [] → step s = .next s

/-- R400: at power-on, under `POWER_ON = zero`, every bit is 0 and every word 0x0000; a keyboard value is `KBD_INIT` =
0x0000 under every setting; the default machine is in this state. The empty mark and outputs, the clock's start
position and the zero draw counter are the model's (logs 4, 10, 11, 14); nothing is said of them here. -/
def Obligations.PowerOnValues : Prop :=
  (∀ cfg : Config, cfg.powerOn = .zero →
      (∀ e, (State.initial cfg).readWord e = 0x0000#16) ∧ ∀ e, (State.initial cfg).readBit e = false)
    ∧ (∀ (cfg : Config) (e : WordRef), e.bank = .kbd ∨ e.bank = .memKbd →
      (State.initial cfg).readWord e = 0x0000#16)
    ∧ State.reset = State.initial Config.standard ∧ Config.standard.powerOn = .zero

/-- The invariant holds at power-on, under any legal parameters. -/
def Obligations.PowerOnMeetsTheInvariant : Prop :=
  ∀ cfg : Config, cfg.wf = true → (State.initial cfg).Inv

/-- Every step from a state that meets the invariant gives a state that meets it: the parameters stay legal, every
store stays canonical and within its array (R50), a fault leaves no output (R302), no instance is evaluated twice in a
phase (R405), and a stopped run stands between cycles (R311). -/
def Obligations.StepKeepsTheInvariant : Prop :=
  ∀ s t : State, s.Inv → step s = .next t → t.Inv
end

