-- ==== Sys2Proof/Laws/Decode.lean ====
section
/-! SUPPORT. The laws of the frame's fields: packing and unpacking are inverse, and a frame's parts are read back. -/

namespace Sys2Proof

/-- Each value fits its field. -/
abbrev Fits (ws vs : List Nat) : Prop := List.Forall₂ (fun w v => v < 2 ^ w) ws vs

theorem unpackFields_packFields {ws vs : List Nat} (h : Fits ws vs) :
    unpackFields ws (packFields ws vs) = (vs, 0) := by
  induction h with
  | nil => rfl
  | @cons w v ws vs hv _ ih =>
    have hd : (v + 2 ^ w * packFields ws vs) / 2 ^ w = packFields ws vs := by
      rw [Nat.add_mul_div_left _ _ (Nat.two_pow_pos w), Nat.div_eq_of_lt hv, Nat.zero_add]
    simp [packFields, unpackFields, Nat.mod_eq_of_lt hv, hd, ih]

theorem packFields_lt (ws vs : List Nat) : packFields ws vs < 2 ^ ws.sum := by
  induction ws generalizing vs with
  | nil => simp [packFields]
  | cons w ws ih =>
    cases vs with
    | nil => simp [packFields]
    | cons v vs =>
      have hm := Nat.mod_lt v (Nat.two_pow_pos w)
      have hr : packFields ws vs + 1 ≤ 2 ^ ws.sum := ih vs
      simp only [packFields, List.sum_cons, pow_add]
      calc v % 2 ^ w + 2 ^ w * packFields ws vs < 2 ^ w + 2 ^ w * packFields ws vs := by omega
        _ = 2 ^ w * (packFields ws vs + 1) := by ring
        _ ≤ 2 ^ w * 2 ^ ws.sum := Nat.mul_le_mul_left _ hr

theorem unpackFields_fits (ws : List Nat) (n : Nat) : Fits ws (unpackFields ws n).1 := by
  induction ws generalizing n with
  | nil => exact .nil
  | cons w ws ih => exact .cons (Nat.mod_lt _ (Nat.two_pow_pos w)) (ih _)

theorem packFields_unpackFields {ws : List Nat} {n : Nat} (h : (unpackFields ws n).2 = 0) :
    packFields ws (unpackFields ws n).1 = n := by
  induction ws generalizing n with
  | nil => simpa [unpackFields, packFields] using h.symm
  | cons w ws ih =>
    have h' : (unpackFields ws (n / 2 ^ w)).2 = 0 := h
    simp only [unpackFields, packFields, ih h', Nat.mod_mod]
    exact Nat.mod_add_div n (2 ^ w)

/-- A component's number names it. -/
@[simp] theorem Component.ofCode_code (c : Component) : Component.ofCode c.code = some c := by
  cases c <;> rfl

theorem Component.code_lt (c : Component) : c.code < 2 ^ 8 := by
  cases c <;> decide

theorem Component.code_of_ofCode {n : Nat} {c : Component} (h : Component.ofCode n = some c) : c.code = n := by
  have hn : n < 38 := by
    by_contra hge
    have : Component.ofCode n = none := List.getElem?_eq_none (by simpa [Component.all] using hge)
    simp [this] at h
  interval_cases n <;> (obtain rfl := Option.some.inj h; rfl)

/-! ### The frame's parts -/

section
variable {control code inst data : Nat}

theorem frameNumber_control (h1 : control < 2 ^ 24) :
    frameNumber control code inst data % 2 ^ 24 = control := by
  unfold frameNumber
  omega

theorem frameNumber_code (h1 : control < 2 ^ 24) (h2 : code < 2 ^ 8) :
    frameNumber control code inst data / 2 ^ 24 % 2 ^ 8 = code := by
  unfold frameNumber
  omega

theorem frameNumber_inst (h1 : control < 2 ^ 24) (h2 : code < 2 ^ 8) (h3 : inst < 2 ^ 8) :
    frameNumber control code inst data / 2 ^ 32 % 2 ^ 8 = inst := by
  unfold frameNumber
  omega

theorem frameNumber_data (h1 : control < 2 ^ 24) (h2 : code < 2 ^ 8) (h3 : inst < 2 ^ 8) :
    frameNumber control code inst data / 2 ^ 40 = data := by
  unfold frameNumber
  omega

theorem frameNumber_lt (h1 : control < 2 ^ 24) (h2 : code < 2 ^ 8) (h3 : inst < 2 ^ 8) (h4 : data < 2 ^ 136) :
    frameNumber control code inst data < 2 ^ 176 := by
  unfold frameNumber
  omega

/-- A number is the frame of its own parts. -/
theorem frameNumber_parts (n : Nat) :
    frameNumber (n % 2 ^ 24) (n / 2 ^ 24 % 2 ^ 8) (n / 2 ^ 32 % 2 ^ 8) (n / 2 ^ 40) = n := by
  unfold frameNumber
  omega

end

theorem Component.control_sum_le (c : Component) : c.controlWidths.sum ≤ 24 := by cases c <;> decide

theorem Component.data_sum_le (c : Component) : c.dataWidths.sum ≤ 136 := by cases c <;> decide

/-- The frame's number, without the truncation to 176 bits, which loses nothing. -/
theorem toNat_encode (i : Instr) :
    (encode i).toNat = frameNumber i.controlWord i.component.code (uval i.inst)
      (packFields i.component.dataWidths i.data) := by
  have h1 : i.controlWord < 2 ^ 24 := lt_of_lt_of_le (packFields_lt _ _)
    (Nat.pow_le_pow_right (by omega) i.component.control_sum_le)
  have h4 : packFields i.component.dataWidths i.data < 2 ^ 136 := lt_of_lt_of_le (packFields_lt _ _)
    (Nat.pow_le_pow_right (by omega) i.component.data_sum_le)
  unfold encode
  rw [BitVec.toNat_ofNat, Nat.mod_eq_of_lt (frameNumber_lt h1 i.component.code_lt i.inst.isLt h4)]

/-! ### Port values -/

@[simp] theorem sigOf_toNat (b : Bool) : sigOf b.toNat = b := by cases b <;> rfl

@[simp] theorem wordOf_toNat (w : Word) : wordOf w.toNat = w := by simp [wordOf]

@[simp] theorem sigOf_zero : sigOf 0 = false := rfl

@[simp] theorem sigOf_one : sigOf 1 = true := rfl

end Sys2Proof
end

