-- ==== Sys2Proof/Laws/Memory.lean ====
section
/-! SUPPORT. The laws of the canonical stores: read after write, other cells, and the canonical form kept. -/

namespace Sys2Proof.Machine

variable {α : Type}

theorem Memory.get_erase_other (d : α) {k k' : Nat} (h : k' ≠ k) (m : Memory α) :
    Memory.get d k' (Memory.erase k m) = Memory.get d k' m := by
  induction m with
  | nil => rfl
  | cons c m ih =>
    simp only [Memory.erase, List.filter_cons] at *
    by_cases hc : c.1 = k
    · simp [hc, Memory.get, ih, Ne.symm h]
    · simp [hc, Memory.get, ih]

theorem Memory.get_erase_same (d : α) (k : Nat) (m : Memory α) : Memory.get d k (Memory.erase k m) = d := by
  induction m with
  | nil => rfl
  | cons c m ih =>
    simp only [Memory.erase, List.filter_cons] at *
    by_cases hc : c.1 = k
    · simp [hc, ih]
    · simp [hc, Memory.get, ih]

theorem Memory.get_insert_other (d : α) {k k' : Nat} (h : k' ≠ k) (v : α) (m : Memory α) :
    Memory.get d k' (Memory.insert k v m) = Memory.get d k' m := by
  induction m with
  | nil => simp [Memory.insert, Memory.get, Ne.symm h]
  | cons c m ih =>
    simp only [Memory.insert]
    split <;> simp [Memory.get, Ne.symm h, ih]

theorem Memory.get_insert_same (d : α) {k : Nat} (v : α) (m : Memory α) (h : ∀ c ∈ m, c.1 ≠ k) :
    Memory.get d k (Memory.insert k v m) = v := by
  induction m with
  | nil => simp [Memory.insert, Memory.get]
  | cons c m ih =>
    have hc : c.1 ≠ k := h c (by simp)
    simp only [Memory.insert]
    split
    · simp [Memory.get]
    · simp [Memory.get, hc, ih fun x hx => h x (by simp [hx])]

theorem Memory.key_of_mem_erase {k : Nat} {m : Memory α} {c : Nat × α} (h : c ∈ Memory.erase k m) :
    c.1 ≠ k ∧ c ∈ m := by
  simp only [Memory.erase, List.mem_filter, bne_iff_ne] at h
  exact ⟨h.2, h.1⟩

theorem Memory.mem_insert {k : Nat} {v : α} {m : Memory α} {c : Nat × α} :
    c ∈ Memory.insert k v m ↔ c = (k, v) ∨ c ∈ m := by
  induction m with
  | nil => simp [Memory.insert]
  | cons a m ih =>
    simp only [Memory.insert]
    split
    · simp
    · simp only [List.mem_cons, ih]; tauto

theorem Memory.sorted_erase {k : Nat} {m : Memory α} (h : m.Pairwise fun a b => a.1 < b.1) :
    (Memory.erase k m).Pairwise fun a b => a.1 < b.1 := h.filter _

theorem Memory.sorted_insert {k : Nat} {v : α} {m : Memory α} (h : m.Pairwise fun a b => a.1 < b.1)
    (hk : ∀ c ∈ m, c.1 ≠ k) : (Memory.insert k v m).Pairwise fun a b => a.1 < b.1 := by
  induction m with
  | nil => simp [Memory.insert]
  | cons a m ih =>
    have ha := List.pairwise_cons.mp h
    simp only [Memory.insert]
    split
    case isTrue hlt =>
      refine List.pairwise_cons.mpr ⟨fun c hc => ?_, h⟩
      rcases List.mem_cons.mp hc with rfl | hc
      · exact hlt
      · exact lt_trans hlt (ha.1 c hc)
    case isFalse hge =>
      refine List.pairwise_cons.mpr ⟨fun c hc => ?_, ih ha.2 fun c hc => hk c (by simp [hc])⟩
      rcases Memory.mem_insert.mp hc with rfl | hc
      · exact lt_of_le_of_ne (not_lt.mp hge) (hk a (by simp))
      · exact ha.1 c hc

/-- The empty store is in canonical form. -/
theorem Memory.wf_nil (d : Nat → α) : Memory.wf d ([] : Memory α) := by
  constructor <;> simp

variable [DecidableEq α]

@[simp] theorem Memory.get_put_same (d v : α) (k : Nat) (m : Memory α) :
    Memory.get d k (Memory.put d k v m) = v := by
  unfold Memory.put
  split
  case isTrue h => rw [Memory.get_erase_same, h]
  case isFalse => exact Memory.get_insert_same _ _ _ fun c hc => (Memory.key_of_mem_erase hc).1

theorem Memory.get_put_other (d d' v : α) {k k' : Nat} (h : k' ≠ k) (m : Memory α) :
    Memory.get d' k' (Memory.put d k v m) = Memory.get d' k' m := by
  unfold Memory.put
  split
  · exact Memory.get_erase_other _ h _
  · rw [Memory.get_insert_other _ h, Memory.get_erase_other _ h]

theorem Memory.mem_put {d v : α} {k : Nat} {m : Memory α} {c : Nat × α} (h : c ∈ Memory.put d k v m) :
    (c = (k, v) ∧ v ≠ d) ∨ c ∈ m := by
  unfold Memory.put at h
  split at h
  case isTrue => exact .inr (Memory.key_of_mem_erase h).2
  case isFalse hv =>
    rcases Memory.mem_insert.mp h with h | h
    · exact .inl ⟨h, hv⟩
    · exact .inr (Memory.key_of_mem_erase h).2

/-- A write keeps the canonical form. -/
theorem Memory.wf_put {d : Nat → α} {m : Memory α} (h : Memory.wf d m) (k : Nat) (v : α) :
    Memory.wf d (Memory.put (d k) k v m) := by
  refine ⟨?_, fun c hc => ?_⟩
  · unfold Memory.put
    split
    · exact Memory.sorted_erase h.1
    · exact Memory.sorted_insert (Memory.sorted_erase h.1) fun c hc => (Memory.key_of_mem_erase hc).1
  · rcases Memory.mem_put hc with ⟨rfl, hv⟩ | hc
    · exact hv
    · exact h.2 c hc

end Sys2Proof.Machine
end

