-- ==== Sys2Proof/Laws/State.lean ====
section
/-! SUPPORT. One lemma per field and update of the state, and the laws of reading and committing an element. -/

namespace Sys2Proof.Machine

@[simp] theorem State.config_drive (s : State) (o : List (PortName × PortValue)) : (s.drive o).config = s.config := rfl
@[simp] theorem State.store_drive (s : State) (o : List (PortName × PortValue)) : (s.drive o).store = s.store := rfl
@[simp] theorem State.draws_drive (s : State) (o : List (PortName × PortValue)) : (s.drive o).draws = s.draws := rfl
@[simp] theorem State.outputs_drive (s : State) (o : List (PortName × PortValue)) : (s.drive o).outputs = o := rfl
@[simp] theorem State.faultMark_drive (s : State) (o : List (PortName × PortValue)) : (s.drive o).faultMark = s.faultMark := rfl
@[simp] theorem State.env_drive (s : State) (o : List (PortName × PortValue)) : (s.drive o).env = s.env := rfl
@[simp] theorem State.readWord_drive (s : State) (o : List (PortName × PortValue)) (x : WordRef) : (s.drive o).readWord x = s.readWord x := rfl
@[simp] theorem State.readBit_drive (s : State) (o : List (PortName × PortValue)) (x : BitRef) : (s.drive o).readBit x = s.readBit x := rfl

@[simp] theorem State.config_driveDraw (s : State) : (s.driveDraw).config = s.config := rfl
@[simp] theorem State.store_driveDraw (s : State) : (s.driveDraw).store = s.store := rfl
@[simp] theorem State.draws_driveDraw (s : State) : (s.driveDraw).draws = s.draws + 1 := rfl
@[simp] theorem State.outputs_driveDraw (s : State) : (s.driveDraw).outputs = outWord (Config.freeWord s.draws) := rfl
@[simp] theorem State.faultMark_driveDraw (s : State) : (s.driveDraw).faultMark = s.faultMark := rfl
@[simp] theorem State.env_driveDraw (s : State) : (s.driveDraw).env = s.env := rfl
@[simp] theorem State.readWord_driveDraw (s : State) (x : WordRef) : (s.driveDraw).readWord x = s.readWord x := rfl
@[simp] theorem State.readBit_driveDraw (s : State) (x : BitRef) : (s.driveDraw).readBit x = s.readBit x := rfl

@[simp] theorem State.config_raiseFault (s : State) (f : Fault) : (s.raiseFault f).config = s.config := rfl
@[simp] theorem State.store_raiseFault (s : State) (f : Fault) : (s.raiseFault f).store = s.store := rfl
@[simp] theorem State.draws_raiseFault (s : State) (f : Fault) : (s.raiseFault f).draws = s.draws := rfl
@[simp] theorem State.outputs_raiseFault (s : State) (f : Fault) : (s.raiseFault f).outputs = [] := rfl
@[simp] theorem State.faultMark_raiseFault (s : State) (f : Fault) : (s.raiseFault f).faultMark = some f := rfl
@[simp] theorem State.env_raiseFault (s : State) (f : Fault) : (s.raiseFault f).env = s.env := rfl
@[simp] theorem State.readWord_raiseFault (s : State) (f : Fault) (x : WordRef) : (s.raiseFault f).readWord x = s.readWord x := rfl
@[simp] theorem State.readBit_raiseFault (s : State) (f : Fault) (x : BitRef) : (s.raiseFault f).readBit x = s.readBit x := rfl

@[simp] theorem State.config_commitWord (s : State) (e : WordRef) (v : Word) : (s.commitWord e v).config = s.config := rfl
@[simp] theorem State.draws_commitWord (s : State) (e : WordRef) (v : Word) : (s.commitWord e v).draws = s.draws := rfl
@[simp] theorem State.outputs_commitWord (s : State) (e : WordRef) (v : Word) : (s.commitWord e v).outputs = s.outputs := rfl
@[simp] theorem State.faultMark_commitWord (s : State) (e : WordRef) (v : Word) : (s.commitWord e v).faultMark = s.faultMark := rfl
@[simp] theorem State.env_commitWord (s : State) (e : WordRef) (v : Word) : (s.commitWord e v).env = s.env := rfl

@[simp] theorem State.config_commitBit (s : State) (e : BitRef) (v : Sig) : (s.commitBit e v).config = s.config := rfl
@[simp] theorem State.draws_commitBit (s : State) (e : BitRef) (v : Sig) : (s.commitBit e v).draws = s.draws := rfl
@[simp] theorem State.outputs_commitBit (s : State) (e : BitRef) (v : Sig) : (s.commitBit e v).outputs = s.outputs := rfl
@[simp] theorem State.faultMark_commitBit (s : State) (e : BitRef) (v : Sig) : (s.commitBit e v).faultMark = s.faultMark := rfl
@[simp] theorem State.env_commitBit (s : State) (e : BitRef) (v : Sig) : (s.commitBit e v).env = s.env := rfl

/-! ### Updates of the environment's side -/

@[simp] theorem State.readWord_setEnv (s : State) (v : Env) (x : WordRef) :
    ({ s with env := v } : State).readWord x = s.readWord x := rfl
@[simp] theorem State.readBit_setEnv (s : State) (v : Env) (x : BitRef) :
    ({ s with env := v } : State).readBit x = s.readBit x := rfl
@[simp] theorem State.readWord_setOutputs (s : State) (o : List (PortName × PortValue)) (x : WordRef) :
    ({ s with outputs := o } : State).readWord x = s.readWord x := rfl
@[simp] theorem State.readBit_setOutputs (s : State) (o : List (PortName × PortValue)) (x : BitRef) :
    ({ s with outputs := o } : State).readBit x = s.readBit x := rfl

/-! ### The stores -/

@[simp] theorem Store.words_setWords_same (t : Store) (b : WordBank) (m : Memory Word) :
    (t.setWords b m).words b = m := by cases b <;> rfl

theorem Store.words_setWords_other (t : Store) {b b' : WordBank} (h : b' ≠ b) (m : Memory Word) :
    (t.setWords b m).words b' = t.words b' := by
  cases b <;> cases b' <;> first | rfl | exact absurd rfl h

@[simp] theorem Store.bits_setWords (t : Store) (b : WordBank) (m : Memory Word) (b' : BitBank) :
    (t.setWords b m).bits b' = t.bits b' := by cases b <;> cases b' <;> rfl

@[simp] theorem Store.bits_setBits_same (t : Store) (b : BitBank) (m : Memory Sig) :
    (t.setBits b m).bits b = m := by cases b <;> rfl

theorem Store.bits_setBits_other (t : Store) {b b' : BitBank} (h : b' ≠ b) (m : Memory Sig) :
    (t.setBits b m).bits b' = t.bits b' := by
  cases b <;> cases b' <;> first | rfl | exact absurd rfl h

@[simp] theorem Store.words_setBits (t : Store) (b : BitBank) (m : Memory Sig) (b' : WordBank) :
    (t.setBits b m).words b' = t.words b' := by cases b <;> cases b' <;> rfl

/-! ### Reading and committing elements -/

/-- Distinct elements of one array have distinct cells (R51: no aliasing). -/
theorem WordRef.key_injective {e e' : WordRef} (hb : e.bank = e'.bank) (h : e.key = e'.key) : e = e' := by
  obtain ⟨b, i, a⟩ := e
  obtain ⟨b', i', a'⟩ := e'
  simp only [WordRef.key] at h hb
  have ha := a.isLt
  have ha' := a'.isLt
  obtain rfl := hb
  have hi : i = i' := BitVec.eq_of_toNat_eq (by omega)
  have hj : a = a' := BitVec.eq_of_toNat_eq (by omega)
  rw [hi, hj]

theorem BitRef.key_injective {e e' : BitRef} (hb : e.bank = e'.bank) (h : e.key = e'.key) : e = e' := by
  obtain ⟨b, i⟩ := e
  obtain ⟨b', i'⟩ := e'
  simp only [BitRef.key] at h hb
  obtain rfl := hb
  rw [BitVec.eq_of_toNat_eq h]

/-- R61: a read returns the value of the last commit to the word. -/
@[simp] theorem State.readWord_commitWord_same (s : State) (e : WordRef) (v : Word) :
    (s.commitWord e v).readWord e = v := by
  simp [State.readWord, State.commitWord]

/-- A commit changes no other word. -/
theorem State.readWord_commitWord_other (s : State) {e e' : WordRef} (h : e' ≠ e) (v : Word) :
    (s.commitWord e v).readWord e' = s.readWord e' := by
  simp only [State.readWord, State.commitWord]
  by_cases hb : e'.bank = e.bank
  · rw [hb, Store.words_setWords_same]
    exact Memory.get_put_other _ _ _ (fun hk => h (WordRef.key_injective hb hk)) _
  · rw [Store.words_setWords_other _ hb]

@[simp] theorem State.readBit_commitWord (s : State) (e : WordRef) (v : Word) (x : BitRef) :
    (s.commitWord e v).readBit x = s.readBit x := by
  simp [State.readBit, State.commitWord]

@[simp] theorem State.readBit_commitBit_same (s : State) (e : BitRef) (v : Sig) :
    (s.commitBit e v).readBit e = v := by
  simp [State.readBit, State.commitBit]

/-- A commit changes no other bit. -/
theorem State.readBit_commitBit_other (s : State) {e e' : BitRef} (h : e' ≠ e) (v : Sig) :
    (s.commitBit e v).readBit e' = s.readBit e' := by
  simp only [State.readBit, State.commitBit]
  by_cases hb : e'.bank = e.bank
  · rw [hb, Store.bits_setBits_same]
    exact Memory.get_put_other _ _ _ (fun hk => h (BitRef.key_injective hb hk)) _
  · rw [Store.bits_setBits_other _ hb]

@[simp] theorem State.readWord_commitBit (s : State) (e : BitRef) (v : Sig) (x : WordRef) :
    (s.commitBit e v).readWord x = s.readWord x := by
  simp [State.readWord, State.commitBit]

/-- A commit of a word keeps every store in canonical form. -/
theorem State.canonical_commitWord {s : State} (h : s.Canonical) (e : WordRef) (v : Word) :
    (s.commitWord e v).Canonical := by
  refine ⟨fun b => ?_, fun b => by simpa [State.commitWord] using h.2 b⟩
  simp only [State.commitWord]
  by_cases hb : b = e.bank
  · subst hb; rw [Store.words_setWords_same]; exact Memory.wf_put (h.1 _) _ _
  · rw [Store.words_setWords_other _ hb]; exact h.1 b

/-- A commit of a bit keeps every store in canonical form. -/
theorem State.canonical_commitBit {s : State} (h : s.Canonical) (e : BitRef) (v : Sig) :
    (s.commitBit e v).Canonical := by
  refine ⟨fun b => by simpa [State.commitBit] using h.1 b, fun b => ?_⟩
  simp only [State.commitBit]
  by_cases hb : b = e.bank
  · subst hb; rw [Store.bits_setBits_same]; exact Memory.wf_put (h.2 _) _ _
  · rw [Store.bits_setBits_other _ hb]; exact h.2 b

/-- A commit of an existing word keeps every listed cell in range. -/
theorem State.cellsInRange_commitWord {s : State} (h : s.CellsInRange) {e : WordRef}
    (he : e.inRange s.config = true) (v : Word) : (s.commitWord e v).CellsInRange := by
  refine ⟨fun b c hc => ?_, fun b c hc => h.2 b c (by simpa [State.commitWord] using hc)⟩
  simp only [State.commitWord] at hc ⊢
  by_cases hb : b = e.bank
  · subst hb
    rw [Store.words_setWords_same] at hc
    rcases Memory.mem_put hc with ⟨rfl, -⟩ | hc
    · have hi := e.i.isLt
      have ha := e.addr.isLt
      simp only [WordRef.inRange, decide_eq_true_eq] at he
      simp only [WordRef.key]
      constructor
      · omega
      · rwa [Nat.mul_add_mod, Nat.mod_eq_of_lt (by omega)]
    · exact h.1 _ c hc
  · rw [Store.words_setWords_other _ hb] at hc
    exact h.1 b c hc

/-- A commit of a bit keeps every listed cell in range. -/
theorem State.cellsInRange_commitBit {s : State} (h : s.CellsInRange) (e : BitRef) (v : Sig) :
    (s.commitBit e v).CellsInRange := by
  refine ⟨fun b c hc => h.1 b c (by simpa [State.commitBit] using hc), fun b c hc => ?_⟩
  simp only [State.commitBit] at hc
  by_cases hb : b = e.bank
  · subst hb
    rw [Store.bits_setBits_same] at hc
    rcases Memory.mem_put hc with ⟨rfl, -⟩ | hc
    · exact e.i.isLt
    · exact h.2 _ c hc
  · rw [Store.bits_setBits_other _ hb] at hc
    exact h.2 b c hc

end Sys2Proof.Machine
end

