-- ==== Sys2Proof/Laws/Exec.lean ====
section
/-! SUPPORT. What one evaluation can do, said once: `exec_cases` lists every effect of every operation, and the frame
lemmas of the shared operations follow. -/

namespace Sys2Proof.Machine

/-! ### The shapes of an evaluation -/

theorem evalPure_next {o : List (PortName × PortValue)} {s t : State} (h : evalPure o s = .next t) :
    t = s.drive o := by
  simpa [evalPure] using h.symm

theorem evalReadWord_next {e : WordRef} {s t : State} (h : evalReadWord e s = .next t) :
    t = s.drive (outWord (s.readWord e)) := by
  simpa [evalReadWord] using h.symm

theorem evalReadBit_next {e : BitRef} {s t : State} (h : evalReadBit e s = .next t) :
    t = s.drive (outSig (s.readBit e)) := by
  simpa [evalReadBit] using h.symm

theorem evalFault_next {f : Fault} {s t : State} (h : evalFault f s = .next t) : t = s.raiseFault f := by
  simpa [evalFault] using h.symm

/-- A commit followed by driving the output changes the word and nothing else. -/
theorem State.changesOnlyWord_commit (s : State) (e : WordRef) (v : Word) (o : List (PortName × PortValue)) :
    s.ChangesOnlyWord e ((s.commitWord e v).drive o) where
  words _ h := by simpa using State.readWord_commitWord_other s h v
  bits b := by simp
  config := rfl
  draws := rfl
  faultMark := rfl
  env := rfl

/-- A commit followed by driving the output changes the bit and nothing else. -/
theorem State.changesOnlyBit_commit (s : State) (e : BitRef) (v : Sig) (o : List (PortName × PortValue)) :
    s.ChangesOnlyBit e ((s.commitBit e v).drive o) where
  words w := by simp
  bits _ h := by simpa using State.readBit_commitBit_other s h v
  config := rfl
  draws := rfl
  faultMark := rfl
  env := rfl

theorem evalCommitWord_next {e : WordRef} {v : Word} {s t : State} (h : evalCommitWord e v s = .next t) :
    t.readWord e = v ∧ t.outputs = outWord v ∧ s.ChangesOnlyWord e t := by
  obtain rfl : (s.commitWord e v).drive (outWord v) = t := by simpa [evalCommitWord] using h
  exact ⟨by simp, rfl, s.changesOnlyWord_commit e v _⟩

theorem evalCommitBit_next {e : BitRef} {v : Sig} {s t : State} (h : evalCommitBit e v s = .next t) :
    t.readBit e = v ∧ t.outputs = outSig v ∧ s.ChangesOnlyBit e t := by
  obtain rfl : (s.commitBit e v).drive (outSig v) = t := by simpa [evalCommitBit] using h
  exact ⟨by simp, rfl, s.changesOnlyBit_commit e v _⟩

/-! ### Addresses of a well-formed operation exist -/

/-- A RAM's address, kept at 15 bits, is below the RAM's size. -/
theorem setWidth_lt {n : Nat} (a : BitVec n) : (a.setWidth 15).toNat < 2 ^ n := by
  rw [BitVec.toNat_setWidth]
  exact lt_of_le_of_lt (Nat.mod_le _ _) a.isLt

theorem ramOffset_lt (a : BitVec 15) : (ramOffset a).toNat < 16384 := by
  have := setWidth_lt (a.extractLsb' 0 14)
  simpa [ramOffset] using this

theorem Config.screen_bounds {cfg : Config} {a : BitVec 15} (h : cfg.region a = .screen) :
    cfg.screenBase ≤ a.toNat ∧ a.toNat < cfg.screenBase + cfg.screenWords := by
  unfold Config.region at h
  split at h
  · cases h
  · split at h
    · assumption
    · split at h <;> cases h

theorem Config.screenOffset_lt {cfg : Config} {a : BitVec 15} (h : cfg.region a = .screen) :
    (cfg.screenOffset a).toNat < cfg.screenWords := by
  have := Config.screen_bounds h
  simp only [Config.screenOffset, BitVec.toNat_ofNat, uval]
  exact lt_of_le_of_lt (Nat.mod_le _ _) (by omega)

/-! ### Every effect of every operation -/

/-- What an evaluation may do: drive outputs; commit one word or one bit and drive it; draw an output; raise a
fault. The commits name their operation (R32), happen under a high clock (R408), and hit an existing
element of the operation's instance. -/
theorem exec_cases (i : Instr) (s : State) :
    (∃ o, exec i s = .next (s.drive o))
    ∨ (∃ e v, exec i s = .next ((s.commitWord e v).drive (outWord v)) ∧ i.mnemonic ∈ wordWriters e.bank
        ∧ e.i = i.inst ∧ clockOf i = some true ∧ i.component.sequential = true
        ∧ (i.wellFormed s.config = true → e.inRange s.config = true))
    ∨ (∃ e v, exec i s = .next ((s.commitBit e v).drive (outSig v)) ∧ i.mnemonic ∈ bitWriters e.bank
        ∧ e.i = i.inst ∧ clockOf i = some true ∧ i.component.sequential = true)
    ∨ (exec i s = .next s.driveDraw ∧ i.component = .memory)
    ∨ (∃ f, exec i s = .next (s.raiseFault f) ∧ i.component = .memory) := by
  cases i
  case dffLatch i x => exact .inr (.inr (.inl ⟨_, _, rfl, List.Mem.head _, rfl, rfl, rfl⟩))
  case bitLoad i x => exact .inr (.inr (.inl ⟨_, _, rfl, List.Mem.head _, rfl, rfl, rfl⟩))
  case registerLoad => exact .inr (.inl ⟨_, _, rfl, List.Mem.head _, rfl, rfl, rfl, fun _ => by rfl⟩)
  case pcReset => exact .inr (.inl ⟨_, _, rfl, List.Mem.head _, rfl, rfl, rfl, fun _ => by rfl⟩)
  case pcLoad => exact .inr (.inl ⟨_, _, rfl, List.Mem.tail _ (List.Mem.head _), rfl, rfl, rfl, fun _ => by rfl⟩)
  case pcInc => exact .inr (.inl ⟨_, _, rfl, List.Mem.tail _ (List.Mem.tail _ (List.Mem.head _)), rfl, rfl, rfl, fun _ => by rfl⟩)
  case ram8Write i x a =>
    exact .inr (.inl ⟨_, _, rfl, List.Mem.head _, rfl, rfl, rfl, fun _ => by
      simpa [WordRef.inRange, bankSize, ram8Ref] using setWidth_lt a⟩)
  case ram64Write i x a =>
    exact .inr (.inl ⟨_, _, rfl, List.Mem.head _, rfl, rfl, rfl, fun _ => by
      simpa [WordRef.inRange, bankSize, ram64Ref] using setWidth_lt a⟩)
  case ram512Write i x a =>
    exact .inr (.inl ⟨_, _, rfl, List.Mem.head _, rfl, rfl, rfl, fun _ => by
      simpa [WordRef.inRange, bankSize, ram512Ref] using setWidth_lt a⟩)
  case ram4kWrite i x a =>
    exact .inr (.inl ⟨_, _, rfl, List.Mem.head _, rfl, rfl, rfl, fun _ => by
      simpa [WordRef.inRange, bankSize, ram4kRef] using setWidth_lt a⟩)
  case ram16kWrite i x a =>
    exact .inr (.inl ⟨_, _, rfl, List.Mem.head _, rfl, rfl, rfl, fun _ => by
      simpa [WordRef.inRange, bankSize, ram16kRef] using setWidth_lt a⟩)
  case screenWrite i x a =>
    exact .inr (.inl ⟨_, _, rfl, List.Mem.head _, rfl, rfl, rfl, fun h => by
      simp only [Instr.wellFormed, decide_eq_true_eq, uval] at h
      simp only [WordRef.inRange, bankSize, screenRef, decide_eq_true_eq, BitVec.toNat_setWidth]
      exact lt_of_le_of_lt (Nat.mod_le _ _) h⟩)
  case memRamWrite i x a =>
    exact .inr (.inl ⟨_, _, rfl, List.Mem.head _, rfl, rfl, rfl, fun _ => by
      exact decide_eq_true (ramOffset_lt a)⟩)
  case memScreenWrite i x a =>
    exact .inr (.inl ⟨_, _, rfl, List.Mem.head _, rfl, rfl, rfl, fun h => by
      simp only [Instr.wellFormed, decide_eq_true_eq] at h
      exact decide_eq_true (Config.screenOffset_lt h)⟩)
  case memUnmappedWrite i x a =>
    simp only [exec, execMemUnmappedWrite]
    cases s.config.unmappedWrite
    · exact .inr (.inr (.inr (.inr ⟨_, rfl, rfl⟩)))
    · exact .inr (.inr (.inr (.inl ⟨rfl, rfl⟩)))
  case memUnmappedRead i x a l c =>
    simp only [exec, execMemUnmappedRead]
    cases s.config.unmappedRead
    · exact .inr (.inr (.inr (.inl ⟨rfl, rfl⟩)))
    · exact .inr (.inr (.inr (.inr ⟨_, rfl, rfl⟩)))
  all_goals exact .inl ⟨_, rfl⟩

/-- An evaluation changes neither the parameters nor the environment's side. -/
theorem exec_config_env {i : Instr} {s t : State} (h : exec i s = .next t) : t.config = s.config ∧ t.env = s.env := by
  rcases exec_cases i s with ⟨o, h'⟩ | ⟨e, v, h', -⟩ | ⟨e, v, h', -⟩ | ⟨h', -⟩ | ⟨f, h', -⟩ <;>
    (obtain rfl := Host.Outcome.next.inj (h'.symm.trans h); exact ⟨rfl, rfl⟩)

end Sys2Proof.Machine
end

