-- ==== Sys2Proof/Laws/PerInstr.lean ====
section
/-! SUPPORT. Facts about every operation as syntax, one lemma per constructor: its fields fit their widths (`Fields`),
and its port values select it again (`Selects`; 30_encoding.md R82). -/

namespace Sys2Proof

theorem sig_fits (b : Sig) : b.toNat < 2 ^ 1 := by cases b <;> decide

theorem zero_fits : 0 < 2 ^ 1 := by decide

theorem one_fits : 1 < 2 ^ 1 := by decide

/-- A row that follows `11` is selected when its control inputs are not both 1. -/
theorem select_idle {α : Type} {load clock : Sig} (h : idleControl load clock = true) (x y : α) :
    (if clock && load then x else y) = y := by
  cases load <;> cases clock <;> first | rfl | exact absurd h (by decide)

theorem selectPc_hold {i : Inst} {x : Word} {reset load inc clock : Sig}
    (h : pcIdleControl reset load inc clock = true) :
    selectPc i x reset load inc clock = .pcHold i x reset load inc clock := by
  revert h
  cases reset <;> cases load <;> cases inc <;> cases clock <;> simp [selectPc, pcIdleControl]

/-- What a MEMORY row with `clock load` = 11 is, by the region. -/
theorem selectMemory_write (cfg : Config) (i : Inst) (x : Word) (a : BitVec 15) :
    selectMemory cfg i x a true true = match cfg.region a with
      | .ram => .memRamWrite i x a
      | .screen => .memScreenWrite i x a
      | .keyboard => .memKbdWrite i x a
      | .unmapped => .memUnmappedWrite i x a := by
  unfold selectMemory
  cases cfg.region a <;> rfl

/-- What a MEMORY row with another `clock load` is, by the region. -/
theorem selectMemory_read {load clock : Sig} (h : idleControl load clock = true) (cfg : Config) (i : Inst) (x : Word)
    (a : BitVec 15) :
    selectMemory cfg i x a load clock = match cfg.region a with
      | .ram => .memRamRead i x a load clock
      | .screen => .memScreenRead i x a load clock
      | .keyboard => .memKbdRead i x a load clock
      | .unmapped => .memUnmappedRead i x a load clock := by
  unfold selectMemory
  revert h
  cases cfg.region a <;> cases load <;> cases clock <;> intro h <;> first | rfl | exact absurd h (by decide)

namespace Laws.Fields

/-- The operation's control and data fields fit their widths in a frame. -/
def Statement (i : Instr) : Prop :=
  Fits i.component.controlWidths i.control ∧ Fits i.component.dataWidths i.data

theorem nand (a b : Sig) : Statement (.nand a b) :=
  ⟨.nil,
    .cons (sig_fits a) <| .cons (sig_fits b) <| .nil⟩

theorem not (inp : Sig) : Statement (.not inp) :=
  ⟨.nil,
    .cons (sig_fits inp) <| .nil⟩

theorem and (a b : Sig) : Statement (.and a b) :=
  ⟨.nil,
    .cons (sig_fits a) <| .cons (sig_fits b) <| .nil⟩

theorem or (a b : Sig) : Statement (.or a b) :=
  ⟨.nil,
    .cons (sig_fits a) <| .cons (sig_fits b) <| .nil⟩

theorem xor (a b : Sig) : Statement (.xor a b) :=
  ⟨.nil,
    .cons (sig_fits a) <| .cons (sig_fits b) <| .nil⟩

theorem mux (a b sel : Sig) : Statement (.mux a b sel) :=
  ⟨.nil,
    .cons (sig_fits a) <| .cons (sig_fits b) <| .cons (sig_fits sel) <| .nil⟩

theorem dmux (inp sel : Sig) : Statement (.dmux inp sel) :=
  ⟨.nil,
    .cons (sig_fits inp) <| .cons (sig_fits sel) <| .nil⟩

theorem not16 (inp : Word) : Statement (.not16 inp) :=
  ⟨.nil,
    .cons (inp.isLt) <| .nil⟩

theorem and16 (a b : Word) : Statement (.and16 a b) :=
  ⟨.nil,
    .cons (a.isLt) <| .cons (b.isLt) <| .nil⟩

theorem or16 (a b : Word) : Statement (.or16 a b) :=
  ⟨.nil,
    .cons (a.isLt) <| .cons (b.isLt) <| .nil⟩

theorem xor16 (a b : Word) : Statement (.xor16 a b) :=
  ⟨.nil,
    .cons (a.isLt) <| .cons (b.isLt) <| .nil⟩

theorem mux16 (a b : Word) (sel : Sig) : Statement (.mux16 a b sel) :=
  ⟨.nil,
    .cons (a.isLt) <| .cons (b.isLt) <| .cons (sig_fits sel) <| .nil⟩

theorem dmux16 (inp : Word) (sel : Sig) : Statement (.dmux16 inp sel) :=
  ⟨.nil,
    .cons (inp.isLt) <| .cons (sig_fits sel) <| .nil⟩

theorem or8way (inp : BitVec 8) : Statement (.or8way inp) :=
  ⟨.nil,
    .cons (inp.isLt) <| .nil⟩

theorem mux4way (a b c d : Sig) (sel : BitVec 2) : Statement (.mux4way a b c d sel) :=
  ⟨.nil,
    .cons (sig_fits a) <| .cons (sig_fits b) <| .cons (sig_fits c) <| .cons (sig_fits d) <| .cons (sel.isLt) <| .nil⟩

theorem mux4way16 (a b c d : Word) (sel : BitVec 2) : Statement (.mux4way16 a b c d sel) :=
  ⟨.nil,
    .cons (a.isLt) <| .cons (b.isLt) <| .cons (c.isLt) <| .cons (d.isLt) <| .cons (sel.isLt) <| .nil⟩

theorem mux8way (a b c d e f g h : Sig) (sel : BitVec 3) : Statement (.mux8way a b c d e f g h sel) :=
  ⟨.nil,
    .cons (sig_fits a) <| .cons (sig_fits b) <| .cons (sig_fits c) <| .cons (sig_fits d) <| .cons (sig_fits e) <| .cons (sig_fits f) <| .cons (sig_fits g) <| .cons (sig_fits h) <| .cons (sel.isLt) <| .nil⟩

theorem mux8way16 (a b c d e f g h : Word) (sel : BitVec 3) : Statement (.mux8way16 a b c d e f g h sel) :=
  ⟨.nil,
    .cons (a.isLt) <| .cons (b.isLt) <| .cons (c.isLt) <| .cons (d.isLt) <| .cons (e.isLt) <| .cons (f.isLt) <| .cons (g.isLt) <| .cons (h.isLt) <| .cons (sel.isLt) <| .nil⟩

theorem dmux4way (inp : Sig) (sel : BitVec 2) : Statement (.dmux4way inp sel) :=
  ⟨.nil,
    .cons (sig_fits inp) <| .cons (sel.isLt) <| .nil⟩

theorem dmux4way16 (inp : Word) (sel : BitVec 2) : Statement (.dmux4way16 inp sel) :=
  ⟨.nil,
    .cons (inp.isLt) <| .cons (sel.isLt) <| .nil⟩

theorem dmux8way (inp : Sig) (sel : BitVec 3) : Statement (.dmux8way inp sel) :=
  ⟨.nil,
    .cons (sig_fits inp) <| .cons (sel.isLt) <| .nil⟩

theorem dmux8way16 (inp : Word) (sel : BitVec 3) : Statement (.dmux8way16 inp sel) :=
  ⟨.nil,
    .cons (inp.isLt) <| .cons (sel.isLt) <| .nil⟩

theorem halfadder (a b : Sig) : Statement (.halfadder a b) :=
  ⟨.nil,
    .cons (sig_fits a) <| .cons (sig_fits b) <| .nil⟩

theorem fulladder (a b c : Sig) : Statement (.fulladder a b c) :=
  ⟨.nil,
    .cons (sig_fits a) <| .cons (sig_fits b) <| .cons (sig_fits c) <| .nil⟩

theorem add16 (a b : Word) : Statement (.add16 a b) :=
  ⟨.nil,
    .cons (a.isLt) <| .cons (b.isLt) <| .nil⟩

theorem inc16 (inp : Word) : Statement (.inc16 inp) :=
  ⟨.nil,
    .cons (inp.isLt) <| .nil⟩

theorem dffLatch (i : Inst) (inp : Sig) : Statement (.dffLatch i inp) :=
  ⟨.cons (one_fits) <| .nil,
    .cons (sig_fits inp) <| .nil⟩

theorem dffHold (i : Inst) (inp : Sig) : Statement (.dffHold i inp) :=
  ⟨.cons (zero_fits) <| .nil,
    .cons (sig_fits inp) <| .nil⟩

theorem bitLoad (i : Inst) (inp : Sig) : Statement (.bitLoad i inp) :=
  ⟨.cons (one_fits) <| .cons (one_fits) <| .nil,
    .cons (sig_fits inp) <| .nil⟩

theorem bitHold (i : Inst) (inp load clock : Sig) : Statement (.bitHold i inp load clock) :=
  ⟨.cons (sig_fits load) <| .cons (sig_fits clock) <| .nil,
    .cons (sig_fits inp) <| .nil⟩

theorem registerLoad (i : Inst) (inp : Word) : Statement (.registerLoad i inp) :=
  ⟨.cons (one_fits) <| .cons (one_fits) <| .nil,
    .cons (inp.isLt) <| .nil⟩

theorem registerHold (i : Inst) (inp : Word) (load clock : Sig) : Statement (.registerHold i inp load clock) :=
  ⟨.cons (sig_fits load) <| .cons (sig_fits clock) <| .nil,
    .cons (inp.isLt) <| .nil⟩

theorem pcReset (i : Inst) (inp : Word) (load inc : Sig) : Statement (.pcReset i inp load inc) :=
  ⟨.cons (sig_fits inc) <| .cons (sig_fits load) <| .cons (one_fits) <| .cons (one_fits) <| .nil,
    .cons (inp.isLt) <| .nil⟩

theorem pcLoad (i : Inst) (inp : Word) (inc : Sig) : Statement (.pcLoad i inp inc) :=
  ⟨.cons (sig_fits inc) <| .cons (one_fits) <| .cons (zero_fits) <| .cons (one_fits) <| .nil,
    .cons (inp.isLt) <| .nil⟩

theorem pcInc (i : Inst) (inp : Word) : Statement (.pcInc i inp) :=
  ⟨.cons (one_fits) <| .cons (zero_fits) <| .cons (zero_fits) <| .cons (one_fits) <| .nil,
    .cons (inp.isLt) <| .nil⟩

theorem pcHold (i : Inst) (inp : Word) (reset load inc clock : Sig) : Statement (.pcHold i inp reset load inc clock) :=
  ⟨.cons (sig_fits inc) <| .cons (sig_fits load) <| .cons (sig_fits reset) <| .cons (sig_fits clock) <| .nil,
    .cons (inp.isLt) <| .nil⟩

theorem ram8Write (i : Inst) (inp : Word) (address : BitVec 3) : Statement (.ram8Write i inp address) :=
  ⟨.cons (one_fits) <| .cons (one_fits) <| .nil,
    .cons (inp.isLt) <| .cons (address.isLt) <| .nil⟩

theorem ram8Read (i : Inst) (inp : Word) (address : BitVec 3) (load clock : Sig) : Statement (.ram8Read i inp address load clock) :=
  ⟨.cons (sig_fits load) <| .cons (sig_fits clock) <| .nil,
    .cons (inp.isLt) <| .cons (address.isLt) <| .nil⟩

theorem ram64Write (i : Inst) (inp : Word) (address : BitVec 6) : Statement (.ram64Write i inp address) :=
  ⟨.cons (one_fits) <| .cons (one_fits) <| .nil,
    .cons (inp.isLt) <| .cons (address.isLt) <| .nil⟩

theorem ram64Read (i : Inst) (inp : Word) (address : BitVec 6) (load clock : Sig) : Statement (.ram64Read i inp address load clock) :=
  ⟨.cons (sig_fits load) <| .cons (sig_fits clock) <| .nil,
    .cons (inp.isLt) <| .cons (address.isLt) <| .nil⟩

theorem ram512Write (i : Inst) (inp : Word) (address : BitVec 9) : Statement (.ram512Write i inp address) :=
  ⟨.cons (one_fits) <| .cons (one_fits) <| .nil,
    .cons (inp.isLt) <| .cons (address.isLt) <| .nil⟩

theorem ram512Read (i : Inst) (inp : Word) (address : BitVec 9) (load clock : Sig) : Statement (.ram512Read i inp address load clock) :=
  ⟨.cons (sig_fits load) <| .cons (sig_fits clock) <| .nil,
    .cons (inp.isLt) <| .cons (address.isLt) <| .nil⟩

theorem ram4kWrite (i : Inst) (inp : Word) (address : BitVec 12) : Statement (.ram4kWrite i inp address) :=
  ⟨.cons (one_fits) <| .cons (one_fits) <| .nil,
    .cons (inp.isLt) <| .cons (address.isLt) <| .nil⟩

theorem ram4kRead (i : Inst) (inp : Word) (address : BitVec 12) (load clock : Sig) : Statement (.ram4kRead i inp address load clock) :=
  ⟨.cons (sig_fits load) <| .cons (sig_fits clock) <| .nil,
    .cons (inp.isLt) <| .cons (address.isLt) <| .nil⟩

theorem ram16kWrite (i : Inst) (inp : Word) (address : BitVec 14) : Statement (.ram16kWrite i inp address) :=
  ⟨.cons (one_fits) <| .cons (one_fits) <| .nil,
    .cons (inp.isLt) <| .cons (address.isLt) <| .nil⟩

theorem ram16kRead (i : Inst) (inp : Word) (address : BitVec 14) (load clock : Sig) : Statement (.ram16kRead i inp address load clock) :=
  ⟨.cons (sig_fits load) <| .cons (sig_fits clock) <| .nil,
    .cons (inp.isLt) <| .cons (address.isLt) <| .nil⟩

theorem screenWrite (i : Inst) (inp : Word) (address : BitVec 14) : Statement (.screenWrite i inp address) :=
  ⟨.cons (one_fits) <| .cons (one_fits) <| .nil,
    .cons (inp.isLt) <| .cons (address.isLt) <| .nil⟩

theorem screenRead (i : Inst) (inp : Word) (address : BitVec 14) (load clock : Sig) : Statement (.screenRead i inp address load clock) :=
  ⟨.cons (sig_fits load) <| .cons (sig_fits clock) <| .nil,
    .cons (inp.isLt) <| .cons (address.isLt) <| .nil⟩

theorem keyboardRead (i : Inst) : Statement (.keyboardRead i) :=
  ⟨.nil,
    .nil⟩

theorem memRamWrite (i : Inst) (inp : Word) (address : BitVec 15) : Statement (.memRamWrite i inp address) :=
  ⟨.cons (address.isLt) <| .cons (one_fits) <| .cons (one_fits) <| .nil,
    .cons (inp.isLt) <| .nil⟩

theorem memRamRead (i : Inst) (inp : Word) (address : BitVec 15) (load clock : Sig) : Statement (.memRamRead i inp address load clock) :=
  ⟨.cons (address.isLt) <| .cons (sig_fits load) <| .cons (sig_fits clock) <| .nil,
    .cons (inp.isLt) <| .nil⟩

theorem memScreenWrite (i : Inst) (inp : Word) (address : BitVec 15) : Statement (.memScreenWrite i inp address) :=
  ⟨.cons (address.isLt) <| .cons (one_fits) <| .cons (one_fits) <| .nil,
    .cons (inp.isLt) <| .nil⟩

theorem memScreenRead (i : Inst) (inp : Word) (address : BitVec 15) (load clock : Sig) : Statement (.memScreenRead i inp address load clock) :=
  ⟨.cons (address.isLt) <| .cons (sig_fits load) <| .cons (sig_fits clock) <| .nil,
    .cons (inp.isLt) <| .nil⟩

theorem memKbdWrite (i : Inst) (inp : Word) (address : BitVec 15) : Statement (.memKbdWrite i inp address) :=
  ⟨.cons (address.isLt) <| .cons (one_fits) <| .cons (one_fits) <| .nil,
    .cons (inp.isLt) <| .nil⟩

theorem memKbdRead (i : Inst) (inp : Word) (address : BitVec 15) (load clock : Sig) : Statement (.memKbdRead i inp address load clock) :=
  ⟨.cons (address.isLt) <| .cons (sig_fits load) <| .cons (sig_fits clock) <| .nil,
    .cons (inp.isLt) <| .nil⟩

theorem memUnmappedWrite (i : Inst) (inp : Word) (address : BitVec 15) : Statement (.memUnmappedWrite i inp address) :=
  ⟨.cons (address.isLt) <| .cons (one_fits) <| .cons (one_fits) <| .nil,
    .cons (inp.isLt) <| .nil⟩

theorem memUnmappedRead (i : Inst) (inp : Word) (address : BitVec 15) (load clock : Sig) : Statement (.memUnmappedRead i inp address load clock) :=
  ⟨.cons (address.isLt) <| .cons (sig_fits load) <| .cons (sig_fits clock) <| .nil,
    .cons (inp.isLt) <| .nil⟩

end Laws.Fields

namespace Laws.Selects

/-- Under parameters in which the operation is well formed, its port values select it. -/
def Statement (i : Instr) : Prop :=
  ∀ cfg : Config, i.wellFormed cfg = true → select cfg i.inst i.component i.values = some i

theorem nand (a b : Sig) : Statement (.nand a b) := by
  intro cfg _
  change some (Instr.nand (sigOf a.toNat) (sigOf b.toNat)) = _
  simp only [sigOf_toNat]

theorem not (inp : Sig) : Statement (.not inp) := by
  intro cfg _
  change some (Instr.not (sigOf inp.toNat)) = _
  simp only [sigOf_toNat]

theorem and (a b : Sig) : Statement (.and a b) := by
  intro cfg _
  change some (Instr.and (sigOf a.toNat) (sigOf b.toNat)) = _
  simp only [sigOf_toNat]

theorem or (a b : Sig) : Statement (.or a b) := by
  intro cfg _
  change some (Instr.or (sigOf a.toNat) (sigOf b.toNat)) = _
  simp only [sigOf_toNat]

theorem xor (a b : Sig) : Statement (.xor a b) := by
  intro cfg _
  change some (Instr.xor (sigOf a.toNat) (sigOf b.toNat)) = _
  simp only [sigOf_toNat]

theorem mux (a b sel : Sig) : Statement (.mux a b sel) := by
  intro cfg _
  change some (Instr.mux (sigOf a.toNat) (sigOf b.toNat) (sigOf sel.toNat)) = _
  simp only [sigOf_toNat]

theorem dmux (inp sel : Sig) : Statement (.dmux inp sel) := by
  intro cfg _
  change some (Instr.dmux (sigOf inp.toNat) (sigOf sel.toNat)) = _
  simp only [sigOf_toNat]

theorem not16 (inp : Word) : Statement (.not16 inp) := by
  intro cfg _
  change some (Instr.not16 (wordOf inp.toNat)) = _
  simp only [wordOf_toNat]

theorem and16 (a b : Word) : Statement (.and16 a b) := by
  intro cfg _
  change some (Instr.and16 (wordOf a.toNat) (wordOf b.toNat)) = _
  simp only [wordOf_toNat]

theorem or16 (a b : Word) : Statement (.or16 a b) := by
  intro cfg _
  change some (Instr.or16 (wordOf a.toNat) (wordOf b.toNat)) = _
  simp only [wordOf_toNat]

theorem xor16 (a b : Word) : Statement (.xor16 a b) := by
  intro cfg _
  change some (Instr.xor16 (wordOf a.toNat) (wordOf b.toNat)) = _
  simp only [wordOf_toNat]

theorem mux16 (a b : Word) (sel : Sig) : Statement (.mux16 a b sel) := by
  intro cfg _
  change some (Instr.mux16 (wordOf a.toNat) (wordOf b.toNat) (sigOf sel.toNat)) = _
  simp only [sigOf_toNat, wordOf_toNat]

theorem dmux16 (inp : Word) (sel : Sig) : Statement (.dmux16 inp sel) := by
  intro cfg _
  change some (Instr.dmux16 (wordOf inp.toNat) (sigOf sel.toNat)) = _
  simp only [sigOf_toNat, wordOf_toNat]

theorem or8way (inp : BitVec 8) : Statement (.or8way inp) := by
  intro cfg _
  change some (Instr.or8way (.ofNat 8 inp.toNat)) = _
  simp only [BitVec.ofNat_toNat, BitVec.setWidth_eq]

theorem mux4way (a b c d : Sig) (sel : BitVec 2) : Statement (.mux4way a b c d sel) := by
  intro cfg _
  change some (Instr.mux4way (sigOf a.toNat) (sigOf b.toNat) (sigOf c.toNat) (sigOf d.toNat) (.ofNat 2 sel.toNat)) = _
  simp only [sigOf_toNat, BitVec.ofNat_toNat, BitVec.setWidth_eq]

theorem mux4way16 (a b c d : Word) (sel : BitVec 2) : Statement (.mux4way16 a b c d sel) := by
  intro cfg _
  change some (Instr.mux4way16 (wordOf a.toNat) (wordOf b.toNat) (wordOf c.toNat) (wordOf d.toNat) (.ofNat 2 sel.toNat)) = _
  simp only [wordOf_toNat, BitVec.ofNat_toNat, BitVec.setWidth_eq]

theorem mux8way (a b c d e f g h : Sig) (sel : BitVec 3) : Statement (.mux8way a b c d e f g h sel) := by
  intro cfg _
  change some (Instr.mux8way (sigOf a.toNat) (sigOf b.toNat) (sigOf c.toNat) (sigOf d.toNat) (sigOf e.toNat) (sigOf f.toNat) (sigOf g.toNat) (sigOf h.toNat) (.ofNat 3 sel.toNat)) = _
  simp only [sigOf_toNat, BitVec.ofNat_toNat, BitVec.setWidth_eq]

theorem mux8way16 (a b c d e f g h : Word) (sel : BitVec 3) : Statement (.mux8way16 a b c d e f g h sel) := by
  intro cfg _
  change some (Instr.mux8way16 (wordOf a.toNat) (wordOf b.toNat) (wordOf c.toNat) (wordOf d.toNat) (wordOf e.toNat) (wordOf f.toNat) (wordOf g.toNat) (wordOf h.toNat) (.ofNat 3 sel.toNat)) = _
  simp only [wordOf_toNat, BitVec.ofNat_toNat, BitVec.setWidth_eq]

theorem dmux4way (inp : Sig) (sel : BitVec 2) : Statement (.dmux4way inp sel) := by
  intro cfg _
  change some (Instr.dmux4way (sigOf inp.toNat) (.ofNat 2 sel.toNat)) = _
  simp only [sigOf_toNat, BitVec.ofNat_toNat, BitVec.setWidth_eq]

theorem dmux4way16 (inp : Word) (sel : BitVec 2) : Statement (.dmux4way16 inp sel) := by
  intro cfg _
  change some (Instr.dmux4way16 (wordOf inp.toNat) (.ofNat 2 sel.toNat)) = _
  simp only [wordOf_toNat, BitVec.ofNat_toNat, BitVec.setWidth_eq]

theorem dmux8way (inp : Sig) (sel : BitVec 3) : Statement (.dmux8way inp sel) := by
  intro cfg _
  change some (Instr.dmux8way (sigOf inp.toNat) (.ofNat 3 sel.toNat)) = _
  simp only [sigOf_toNat, BitVec.ofNat_toNat, BitVec.setWidth_eq]

theorem dmux8way16 (inp : Word) (sel : BitVec 3) : Statement (.dmux8way16 inp sel) := by
  intro cfg _
  change some (Instr.dmux8way16 (wordOf inp.toNat) (.ofNat 3 sel.toNat)) = _
  simp only [wordOf_toNat, BitVec.ofNat_toNat, BitVec.setWidth_eq]

theorem halfadder (a b : Sig) : Statement (.halfadder a b) := by
  intro cfg _
  change some (Instr.halfadder (sigOf a.toNat) (sigOf b.toNat)) = _
  simp only [sigOf_toNat]

theorem fulladder (a b c : Sig) : Statement (.fulladder a b c) := by
  intro cfg _
  change some (Instr.fulladder (sigOf a.toNat) (sigOf b.toNat) (sigOf c.toNat)) = _
  simp only [sigOf_toNat]

theorem add16 (a b : Word) : Statement (.add16 a b) := by
  intro cfg _
  change some (Instr.add16 (wordOf a.toNat) (wordOf b.toNat)) = _
  simp only [wordOf_toNat]

theorem inc16 (inp : Word) : Statement (.inc16 inp) := by
  intro cfg _
  change some (Instr.inc16 (wordOf inp.toNat)) = _
  simp only [wordOf_toNat]

theorem dffLatch (i : Inst) (inp : Sig) : Statement (.dffLatch i inp) := by
  intro cfg _
  change some (Instr.dffLatch i (sigOf inp.toNat)) = _
  simp only [sigOf_toNat]

theorem dffHold (i : Inst) (inp : Sig) : Statement (.dffHold i inp) := by
  intro cfg _
  change some (Instr.dffHold i (sigOf inp.toNat)) = _
  simp only [sigOf_toNat]

theorem bitLoad (i : Inst) (inp : Sig) : Statement (.bitLoad i inp) := by
  intro cfg _
  change some (Instr.bitLoad i (sigOf inp.toNat)) = _
  simp only [sigOf_toNat]

theorem bitHold (i : Inst) (inp load clock : Sig) : Statement (.bitHold i inp load clock) := by
  intro cfg h
  change some (if sigOf clock.toNat && sigOf load.toNat then Instr.bitLoad i (sigOf inp.toNat) else Instr.bitHold i (sigOf inp.toNat) (sigOf load.toNat) (sigOf clock.toNat)) = _
  simp only [sigOf_toNat, select_idle h]

theorem registerLoad (i : Inst) (inp : Word) : Statement (.registerLoad i inp) := by
  intro cfg _
  change some (Instr.registerLoad i (wordOf inp.toNat)) = _
  simp only [wordOf_toNat]

theorem registerHold (i : Inst) (inp : Word) (load clock : Sig) : Statement (.registerHold i inp load clock) := by
  intro cfg h
  change some (if sigOf clock.toNat && sigOf load.toNat then Instr.registerLoad i (wordOf inp.toNat) else Instr.registerHold i (wordOf inp.toNat) (sigOf load.toNat) (sigOf clock.toNat)) = _
  simp only [sigOf_toNat, wordOf_toNat, select_idle h]

theorem pcReset (i : Inst) (inp : Word) (load inc : Sig) : Statement (.pcReset i inp load inc) := by
  intro cfg _
  change some (Instr.pcReset i (wordOf inp.toNat) (sigOf load.toNat) (sigOf inc.toNat)) = _
  simp only [sigOf_toNat, wordOf_toNat]

theorem pcLoad (i : Inst) (inp : Word) (inc : Sig) : Statement (.pcLoad i inp inc) := by
  intro cfg _
  change some (Instr.pcLoad i (wordOf inp.toNat) (sigOf inc.toNat)) = _
  simp only [sigOf_toNat, wordOf_toNat]

theorem pcInc (i : Inst) (inp : Word) : Statement (.pcInc i inp) := by
  intro cfg _
  change some (Instr.pcInc i (wordOf inp.toNat)) = _
  simp only [wordOf_toNat]

theorem pcHold (i : Inst) (inp : Word) (reset load inc clock : Sig) : Statement (.pcHold i inp reset load inc clock) := by
  intro cfg h
  change some (selectPc i (wordOf inp.toNat) (sigOf reset.toNat) (sigOf load.toNat) (sigOf inc.toNat) (sigOf clock.toNat)) = _
  simp only [sigOf_toNat, wordOf_toNat, selectPc_hold h]

theorem ram8Write (i : Inst) (inp : Word) (address : BitVec 3) : Statement (.ram8Write i inp address) := by
  intro cfg _
  change some (Instr.ram8Write i (wordOf inp.toNat) (.ofNat 3 address.toNat)) = _
  simp only [wordOf_toNat, BitVec.ofNat_toNat, BitVec.setWidth_eq]

theorem ram8Read (i : Inst) (inp : Word) (address : BitVec 3) (load clock : Sig) : Statement (.ram8Read i inp address load clock) := by
  intro cfg h
  change some (if sigOf clock.toNat && sigOf load.toNat then Instr.ram8Write i (wordOf inp.toNat) (.ofNat 3 address.toNat) else Instr.ram8Read i (wordOf inp.toNat) (.ofNat 3 address.toNat) (sigOf load.toNat) (sigOf clock.toNat)) = _
  simp only [sigOf_toNat, wordOf_toNat, BitVec.ofNat_toNat, BitVec.setWidth_eq, select_idle h]

theorem ram64Write (i : Inst) (inp : Word) (address : BitVec 6) : Statement (.ram64Write i inp address) := by
  intro cfg _
  change some (Instr.ram64Write i (wordOf inp.toNat) (.ofNat 6 address.toNat)) = _
  simp only [wordOf_toNat, BitVec.ofNat_toNat, BitVec.setWidth_eq]

theorem ram64Read (i : Inst) (inp : Word) (address : BitVec 6) (load clock : Sig) : Statement (.ram64Read i inp address load clock) := by
  intro cfg h
  change some (if sigOf clock.toNat && sigOf load.toNat then Instr.ram64Write i (wordOf inp.toNat) (.ofNat 6 address.toNat) else Instr.ram64Read i (wordOf inp.toNat) (.ofNat 6 address.toNat) (sigOf load.toNat) (sigOf clock.toNat)) = _
  simp only [sigOf_toNat, wordOf_toNat, BitVec.ofNat_toNat, BitVec.setWidth_eq, select_idle h]

theorem ram512Write (i : Inst) (inp : Word) (address : BitVec 9) : Statement (.ram512Write i inp address) := by
  intro cfg _
  change some (Instr.ram512Write i (wordOf inp.toNat) (.ofNat 9 address.toNat)) = _
  simp only [wordOf_toNat, BitVec.ofNat_toNat, BitVec.setWidth_eq]

theorem ram512Read (i : Inst) (inp : Word) (address : BitVec 9) (load clock : Sig) : Statement (.ram512Read i inp address load clock) := by
  intro cfg h
  change some (if sigOf clock.toNat && sigOf load.toNat then Instr.ram512Write i (wordOf inp.toNat) (.ofNat 9 address.toNat) else Instr.ram512Read i (wordOf inp.toNat) (.ofNat 9 address.toNat) (sigOf load.toNat) (sigOf clock.toNat)) = _
  simp only [sigOf_toNat, wordOf_toNat, BitVec.ofNat_toNat, BitVec.setWidth_eq, select_idle h]

theorem ram4kWrite (i : Inst) (inp : Word) (address : BitVec 12) : Statement (.ram4kWrite i inp address) := by
  intro cfg _
  change some (Instr.ram4kWrite i (wordOf inp.toNat) (.ofNat 12 address.toNat)) = _
  simp only [wordOf_toNat, BitVec.ofNat_toNat, BitVec.setWidth_eq]

theorem ram4kRead (i : Inst) (inp : Word) (address : BitVec 12) (load clock : Sig) : Statement (.ram4kRead i inp address load clock) := by
  intro cfg h
  change some (if sigOf clock.toNat && sigOf load.toNat then Instr.ram4kWrite i (wordOf inp.toNat) (.ofNat 12 address.toNat) else Instr.ram4kRead i (wordOf inp.toNat) (.ofNat 12 address.toNat) (sigOf load.toNat) (sigOf clock.toNat)) = _
  simp only [sigOf_toNat, wordOf_toNat, BitVec.ofNat_toNat, BitVec.setWidth_eq, select_idle h]

theorem ram16kWrite (i : Inst) (inp : Word) (address : BitVec 14) : Statement (.ram16kWrite i inp address) := by
  intro cfg _
  change some (Instr.ram16kWrite i (wordOf inp.toNat) (.ofNat 14 address.toNat)) = _
  simp only [wordOf_toNat, BitVec.ofNat_toNat, BitVec.setWidth_eq]

theorem ram16kRead (i : Inst) (inp : Word) (address : BitVec 14) (load clock : Sig) : Statement (.ram16kRead i inp address load clock) := by
  intro cfg h
  change some (if sigOf clock.toNat && sigOf load.toNat then Instr.ram16kWrite i (wordOf inp.toNat) (.ofNat 14 address.toNat) else Instr.ram16kRead i (wordOf inp.toNat) (.ofNat 14 address.toNat) (sigOf load.toNat) (sigOf clock.toNat)) = _
  simp only [sigOf_toNat, wordOf_toNat, BitVec.ofNat_toNat, BitVec.setWidth_eq, select_idle h]

theorem screenWrite (i : Inst) (inp : Word) (address : BitVec 14) : Statement (.screenWrite i inp address) := by
  intro cfg _
  change some (Instr.screenWrite i (wordOf inp.toNat) (.ofNat 14 address.toNat)) = _
  simp only [wordOf_toNat, BitVec.ofNat_toNat, BitVec.setWidth_eq]

theorem screenRead (i : Inst) (inp : Word) (address : BitVec 14) (load clock : Sig) : Statement (.screenRead i inp address load clock) := by
  intro cfg h
  change some (if sigOf clock.toNat && sigOf load.toNat then Instr.screenWrite i (wordOf inp.toNat) (.ofNat 14 address.toNat) else Instr.screenRead i (wordOf inp.toNat) (.ofNat 14 address.toNat) (sigOf load.toNat) (sigOf clock.toNat)) = _
  simp only [sigOf_toNat, wordOf_toNat, BitVec.ofNat_toNat, BitVec.setWidth_eq, select_idle (Bool.and_eq_true_iff.mp h).2]

theorem keyboardRead (i : Inst) : Statement (.keyboardRead i) := by
  intro cfg _
  rfl

theorem memRamWrite (i : Inst) (inp : Word) (address : BitVec 15) : Statement (.memRamWrite i inp address) := by
  intro cfg h
  change some (selectMemory cfg i (wordOf inp.toNat) (.ofNat 15 address.toNat) true true) = _
  simp only [wordOf_toNat, BitVec.ofNat_toNat, BitVec.setWidth_eq]
  rw [selectMemory_write, of_decide_eq_true h]

theorem memRamRead (i : Inst) (inp : Word) (address : BitVec 15) (load clock : Sig) : Statement (.memRamRead i inp address load clock) := by
  intro cfg h
  change some (selectMemory cfg i (wordOf inp.toNat) (.ofNat 15 address.toNat) (sigOf load.toNat) (sigOf clock.toNat)) = _
  simp only [sigOf_toNat, wordOf_toNat, BitVec.ofNat_toNat, BitVec.setWidth_eq]
  rw [selectMemory_read (Bool.and_eq_true_iff.mp h).2, of_decide_eq_true (Bool.and_eq_true_iff.mp h).1]

theorem memScreenWrite (i : Inst) (inp : Word) (address : BitVec 15) : Statement (.memScreenWrite i inp address) := by
  intro cfg h
  change some (selectMemory cfg i (wordOf inp.toNat) (.ofNat 15 address.toNat) true true) = _
  simp only [wordOf_toNat, BitVec.ofNat_toNat, BitVec.setWidth_eq]
  rw [selectMemory_write, of_decide_eq_true h]

theorem memScreenRead (i : Inst) (inp : Word) (address : BitVec 15) (load clock : Sig) : Statement (.memScreenRead i inp address load clock) := by
  intro cfg h
  change some (selectMemory cfg i (wordOf inp.toNat) (.ofNat 15 address.toNat) (sigOf load.toNat) (sigOf clock.toNat)) = _
  simp only [sigOf_toNat, wordOf_toNat, BitVec.ofNat_toNat, BitVec.setWidth_eq]
  rw [selectMemory_read (Bool.and_eq_true_iff.mp h).2, of_decide_eq_true (Bool.and_eq_true_iff.mp h).1]

theorem memKbdWrite (i : Inst) (inp : Word) (address : BitVec 15) : Statement (.memKbdWrite i inp address) := by
  intro cfg h
  change some (selectMemory cfg i (wordOf inp.toNat) (.ofNat 15 address.toNat) true true) = _
  simp only [wordOf_toNat, BitVec.ofNat_toNat, BitVec.setWidth_eq]
  rw [selectMemory_write, of_decide_eq_true h]

theorem memKbdRead (i : Inst) (inp : Word) (address : BitVec 15) (load clock : Sig) : Statement (.memKbdRead i inp address load clock) := by
  intro cfg h
  change some (selectMemory cfg i (wordOf inp.toNat) (.ofNat 15 address.toNat) (sigOf load.toNat) (sigOf clock.toNat)) = _
  simp only [sigOf_toNat, wordOf_toNat, BitVec.ofNat_toNat, BitVec.setWidth_eq]
  rw [selectMemory_read (Bool.and_eq_true_iff.mp h).2, of_decide_eq_true (Bool.and_eq_true_iff.mp h).1]

theorem memUnmappedWrite (i : Inst) (inp : Word) (address : BitVec 15) : Statement (.memUnmappedWrite i inp address) := by
  intro cfg h
  change some (selectMemory cfg i (wordOf inp.toNat) (.ofNat 15 address.toNat) true true) = _
  simp only [wordOf_toNat, BitVec.ofNat_toNat, BitVec.setWidth_eq]
  rw [selectMemory_write, of_decide_eq_true h]

theorem memUnmappedRead (i : Inst) (inp : Word) (address : BitVec 15) (load clock : Sig) : Statement (.memUnmappedRead i inp address load clock) := by
  intro cfg h
  change some (selectMemory cfg i (wordOf inp.toNat) (.ofNat 15 address.toNat) (sigOf load.toNat) (sigOf clock.toNat)) = _
  simp only [sigOf_toNat, wordOf_toNat, BitVec.ofNat_toNat, BitVec.setWidth_eq]
  rw [selectMemory_read (Bool.and_eq_true_iff.mp h).2, of_decide_eq_true (Bool.and_eq_true_iff.mp h).1]

end Laws.Selects

end Sys2Proof
end

