-- ==== Sys2Proof/Tests/Slice0.lean ====
section
/-! SUPPORT. The model's own tests: the well-formedness smoke test, frames written out from 30_encoding.md, vectors of
95_test_vectors.md, and for each obligation that has hypotheses a witness that meets them. -/

namespace Sys2Proof.Tests

open Sys2Proof Sys2Proof.Machine

/-! ### Helpers -/

/-- Every frame decodes to the operation beside it, under the default parameters. -/
def decodesTo (rows : List (Frame × Instr)) : Bool :=
  rows.all fun r => decide (decode Config.standard r.1 = .ok r.2)

/-- The outputs that an evaluation drives; none where it stops. -/
def outs (i : Instr) (s : State) : Option (List (PortName × PortValue)) :=
  match exec i s with
  | .next t => some t.outputs
  | .fault _ => none
  | .refused _ => none

/-- Every operation drives the outputs beside it, from power-on. -/
def drives (rows : List (Instr × List (PortName × PortValue))) : Bool :=
  rows.all fun r => decide (outs r.1 State.reset = some r.2)

/-- The power-on machine with one word stored. -/
def holding (e : WordRef) (v : Word) : State := State.reset.commitWord e v

/-- The power-on machine with one bit stored. -/
def holdingBit (e : BitRef) (v : Sig) : State := State.reset.commitBit e v

/-- The power-on machine with inputs to come. -/
def given (inputs : List Input) : State := { State.reset with env := { Env.initial with schedule := inputs } }

/-- The power-on machine under other parameters. -/
def under (cfg : Config) : State := State.initial cfg

/-- The word that an evaluation leaves in an element; none where the evaluation stops. -/
def leaves (i : Instr) (s : State) (e : WordRef) : Option Word :=
  match exec i s with
  | .next t => some (t.readWord e)
  | .fault _ => none
  | .refused _ => none

/-- The state that one step reaches; the state itself where the step stops. -/
def after (s : State) : State :=
  match step s with
  | .next t => t
  | .fault _ => s
  | .refused _ => s

/-- The default parameters, but an unmapped read faults and an unmapped write is ignored. -/
def cfgOther : Config := { Config.standard with unmappedRead := .fault, unmappedWrite := .ignore }

/-- Other legal parameters: a screen of 16 words below the keyboard, at the top of the address space. -/
def cfgSmall : Config := { Config.standard with screenBase := 0x7FE0, screenAw := 4, kbdAddr := 0x7FFF }

/-! ### WellFormed refuses ill-formed terms, one for each check -/

theorem smoke_bit_hold : (Instr.bitHold 0 true true true).wellFormed Config.standard = false := by decide
theorem smoke_register_hold : (Instr.registerHold 0 0 true true).wellFormed Config.standard = false := by decide
theorem smoke_pc_hold_reset : (Instr.pcHold 0 0 true false false true).wellFormed Config.standard = false := by decide
theorem smoke_pc_hold_load : (Instr.pcHold 0 0 false true false true).wellFormed Config.standard = false := by decide
theorem smoke_pc_hold_inc : (Instr.pcHold 0 0 false false true true).wellFormed Config.standard = false := by decide
theorem smoke_ram8_read : (Instr.ram8Read 0 0 0 true true).wellFormed Config.standard = false := by decide
theorem smoke_ram64_read : (Instr.ram64Read 0 0 0 true true).wellFormed Config.standard = false := by decide
theorem smoke_ram512_read : (Instr.ram512Read 0 0 0 true true).wellFormed Config.standard = false := by decide
theorem smoke_ram4k_read : (Instr.ram4kRead 0 0 0 true true).wellFormed Config.standard = false := by decide
theorem smoke_ram16k_read : (Instr.ram16kRead 0 0 0 true true).wellFormed Config.standard = false := by decide
theorem smoke_screen_write_range : (Instr.screenWrite 0 0 8192).wellFormed Config.standard = false := by decide
theorem smoke_screen_read_range : (Instr.screenRead 0 0 8192 false true).wellFormed Config.standard = false := by decide
theorem smoke_screen_read : (Instr.screenRead 0 0 0 true true).wellFormed Config.standard = false := by decide
theorem smoke_mem_ram_write : (Instr.memRamWrite 0 0 0x4000).wellFormed Config.standard = false := by decide
theorem smoke_mem_ram_read_region : (Instr.memRamRead 0 0 0x4000 false true).wellFormed Config.standard = false := by decide
theorem smoke_mem_ram_read : (Instr.memRamRead 0 0 0x3FFF true true).wellFormed Config.standard = false := by decide
theorem smoke_mem_screen_write : (Instr.memScreenWrite 0 0 0x3FFF).wellFormed Config.standard = false := by decide
theorem smoke_mem_screen_read_region : (Instr.memScreenRead 0 0 0x6000 false true).wellFormed Config.standard = false := by
  decide
theorem smoke_mem_screen_read : (Instr.memScreenRead 0 0 0x4000 true true).wellFormed Config.standard = false := by decide
theorem smoke_mem_kbd_write : (Instr.memKbdWrite 0 0 0x6001).wellFormed Config.standard = false := by decide
theorem smoke_mem_kbd_read_region : (Instr.memKbdRead 0 0 0x5FFF false true).wellFormed Config.standard = false := by decide
theorem smoke_mem_kbd_read : (Instr.memKbdRead 0 0 0x6000 true true).wellFormed Config.standard = false := by decide
theorem smoke_mem_unmapped_write : (Instr.memUnmappedWrite 0 0 0x6000).wellFormed Config.standard = false := by decide
theorem smoke_mem_unmapped_read_region : (Instr.memUnmappedRead 0 0 0x6000 false true).wellFormed Config.standard = false := by
  decide
theorem smoke_mem_unmapped_read : (Instr.memUnmappedRead 0 0 0x7FFF true true).wellFormed Config.standard = false := by
  decide
theorem smoke_config_regions_overlap : (Config.wf { Config.standard with kbdAddr := 0x5FFF }) = false := by decide
theorem smoke_config_outside : (Config.wf { Config.standard with screenBase := 0x6001 }) = false := by decide
theorem smoke_config_in_ram : (Config.wf { Config.standard with screenBase := 0x3FFF }) = false := by decide

/-! ### Decoding: control words from R82, widths and component order from R81, the frame's layout from log 1 -/

theorem test_decode_gates1 : decodesTo [
    (0x1_00_00_000000#176, .nand true false),
    (0x1_00_01_000000#176, .not true),
    (0x2_00_02_000000#176, .and false true),
    (0x1_00_03_000000#176, .or true false),
    (0x2_00_04_000000#176, .xor false true),
    (0x6_00_05_000000#176, .mux false true true),
    (0x1_00_06_000000#176, .dmux true false)] = true := by decide

theorem test_decode_gates16 : decodesTo [
    (0x1234_00_07_000000#176, .not16 0x1234#16),
    (0xFF00F0F0_00_08_000000#176, .and16 0xF0F0#16 0xFF00#16),
    (0xFF00F0F0_00_09_000000#176, .or16 0xF0F0#16 0xFF00#16),
    (0xFF00F0F0_00_0A_000000#176, .xor16 0xF0F0#16 0xFF00#16),
    (0x1ABCD1234_00_0B_000000#176, .mux16 0x1234#16 0xABCD#16 true),
    (0x11234_00_0C_000000#176, .dmux16 0x1234#16 true),
    (0x10_00_0D_000000#176, .or8way 0x10#8)] = true := by decide

theorem test_decode_multiway : decodesTo [
    (0x24_00_0E_000000#176, .mux4way false false true false 2#2),
    (0x10004000300020001_00_0F_000000#176, .mux4way16 1#16 2#16 3#16 4#16 1#2),
    (0x520_00_10_000000#176, .mux8way false false false false false true false false 5#3),
    (0x677776666555544443333222211110000_00_11_000000#176, .mux8way16 0#16 0x1111#16 0x2222#16 0x3333#16 0x4444#16 0x5555#16 0x6666#16 0x7777#16 6#3),
    (0x7_00_12_000000#176, .dmux4way true 3#2),
    (0x2BEEF_00_13_000000#176, .dmux4way16 0xBEEF#16 2#2),
    (0x7_00_14_000000#176, .dmux8way true 3#3),
    (0x700FF_00_15_000000#176, .dmux8way16 0x00FF#16 7#3)] = true := by decide

theorem test_decode_adders : decodesTo [
    (0x1_00_16_000000#176, .halfadder true false),
    (0x5_00_17_000000#176, .fulladder true false true),
    (0xFFFF0011_00_18_000000#176, .add16 0x0011#16 0xFFFF#16),
    (0x7FFF_00_19_000000#176, .inc16 0x7FFF#16)] = true := by decide

theorem test_decode_sequential : decodesTo [
    (0x1_03_1A_000001#176, .dffLatch 3#8 true),
    (0x1_03_1A_000000#176, .dffHold 3#8 true),
    (0x1_01_1B_000003#176, .bitLoad 1#8 true),
    (0x1_01_1B_000001#176, .bitHold 1#8 true true false),
    (0xFF_FF_1C_000003#176, .registerLoad 255#8 0x00FF#16),
    (0x1234_FF_1C_000002#176, .registerHold 255#8 0x1234#16 false true)] = true := by decide

theorem test_decode_pc : decodesTo [
    (0x5555_00_1D_00000E#176, .pcReset 0#8 0x5555#16 true false),
    (0x5555_00_1D_00000D#176, .pcReset 0#8 0x5555#16 false true),
    (0x10_00_1D_00000B#176, .pcLoad 0#8 0x0010#16 true),
    (0x100_00_1D_000009#176, .pcInc 0#8 0x0100#16),
    (0x100_00_1D_000008#176, .pcHold 0#8 0x0100#16 false false false true),
    (0x00_1D_000004#176, .pcHold 0#8 0x0000#16 true false false false)] = true := by decide

theorem test_decode_rams : decodesTo [
    (0x5BEEF_02_1E_000003#176, .ram8Write 2#8 0xBEEF#16 5#3),
    (0x5BEEF_02_1E_000001#176, .ram8Read 2#8 0xBEEF#16 5#3 true false),
    (0x2B1234_02_1F_000003#176, .ram64Write 2#8 0x1234#16 43#6),
    (0x2B1234_02_1F_000001#176, .ram64Read 2#8 0x1234#16 43#6 true false),
    (0x1FF0F0F_02_20_000003#176, .ram512Write 2#8 0x0F0F#16 511#9),
    (0x1FF0F0F_02_20_000001#176, .ram512Read 2#8 0x0F0F#16 511#9 true false),
    (0x8008000_02_21_000003#176, .ram4kWrite 2#8 0x8000#16 2048#12),
    (0x8008000_02_21_000001#176, .ram4kRead 2#8 0x8000#16 2048#12 true false),
    (0x3FFF7FFF_02_22_000003#176, .ram16kWrite 2#8 0x7FFF#16 16383#14),
    (0x3FFF7FFF_02_22_000001#176, .ram16kRead 2#8 0x7FFF#16 16383#14 true false),
    (0x1FFFFFFF_02_23_000003#176, .screenWrite 2#8 0xFFFF#16 8191#14),
    (0x1FFFFFFF_02_23_000001#176, .screenRead 2#8 0xFFFF#16 8191#14 true false)] = true := by decide

theorem test_decode_memory : decodesTo [
    (0x04_24_000000#176, .keyboardRead 4#8),
    (0x1111_00_25_01BFFF#176, .memRamWrite 0#8 0x1111#16 0x3FFF#15),
    (0x00_25_010000#176, .memRamRead 0#8 0#16 0#15 false true),
    (0xFFFF_00_25_01C000#176, .memScreenWrite 0#8 0xFFFF#16 0x4000#15),
    (0xFFFF_00_25_00DFFF#176, .memScreenRead 0#8 0xFFFF#16 0x5FFF#15 true false),
    (0x1234_00_25_01E000#176, .memKbdWrite 0#8 0x1234#16 0x6000#15),
    (0x00_25_006000#176, .memKbdRead 0#8 0#16 0x6000#15 false false),
    (0x1_00_25_01E001#176, .memUnmappedWrite 0#8 1#16 0x6001#15),
    (0x00_25_017FFF#176, .memUnmappedRead 0#8 0#16 0x7FFF#15 false true)] = true := by decide

theorem test_decode_refuses_unknown_component : decode Config.standard 0x26_000000#176 = .error (.unknownComponent 38) := by
  decide

theorem test_decode_refuses_extra_bit : decode Config.standard 0x4_00_02_000000#176 = .error (.reservedBits .and) := by
  decide

theorem test_decode_refuses_gate_number : decode Config.standard 0x01_02_000000#176 = .error (.reservedBits .and) := by
  decide

theorem test_decode_refuses_screen_address :
    decode Config.standard 0x20000000_00_23_000003#176 = .error (.outOfRange .screen) := by decide

/-- Each component's bare control words (opcode_table.json), as the host's interface reads them. -/
theorem test_table_words :
    decodeTableWord 0 0 = some (.nand false false)
      ∧ decodeTableWord 8 1 = some (.dffLatch 0 false)
      ∧ decodeTableWord 8 3 = some (.registerLoad 0 0)
      ∧ decodeTableWord 8 0xC = some (.pcReset 0 0 false false)
      ∧ decodeTableWord 24 0x1E000 = some (.memKbdWrite 0 0 0x6000) := by decide

/-! ### The gate library (95_test_vectors.md L1.1, L2.1 to L2.3) -/

theorem test_nand_table : drives [(.nand false false, outSig true), (.nand false true, outSig true),
    (.nand true false, outSig true), (.nand true true, outSig false)] = true := by decide

theorem test_not_table : drives [(.not false, outSig true), (.not true, outSig false)] = true := by decide

theorem test_and_table : drives [(.and false false, outSig false), (.and false true, outSig false),
    (.and true false, outSig false), (.and true true, outSig true)] = true := by decide

theorem test_or_table : drives [(.or false false, outSig false), (.or false true, outSig true),
    (.or true false, outSig true), (.or true true, outSig true)] = true := by decide

theorem test_xor_table : drives [(.xor false false, outSig false), (.xor false true, outSig true),
    (.xor true false, outSig true), (.xor true true, outSig false)] = true := by decide

theorem test_mux_table : drives [(.mux false false false, outSig false), (.mux false true false, outSig false),
    (.mux true false false, outSig true), (.mux false false true, outSig false), (.mux false true true, outSig true),
    (.mux true false true, outSig false)] = true := by decide

theorem test_dmux_table : drives [(.dmux false true, [(.a, .sig false), (.b, .sig false)]),
    (.dmux true false, [(.a, .sig true), (.b, .sig false)]),
    (.dmux true true, [(.a, .sig false), (.b, .sig true)])] = true := by decide

theorem test_word_gates : drives [(.not16 0x1234, outWord 0xEDCB), (.not16 0x0000, outWord 0xFFFF),
    (.and16 0xF0F0 0xFF00, outWord 0xF000), (.or16 0xF0F0 0xFF00, outWord 0xFFF0),
    (.xor16 0xF0F0 0xFF00, outWord 0x0FF0), (.xor16 0xAAAA 0xFFFF, outWord 0x5555)] = true := by decide

theorem test_word_selectors : drives [(.mux16 0x1234 0xABCD false, outWord 0x1234),
    (.mux16 0x1234 0xABCD true, outWord 0xABCD),
    (.dmux16 0x1234 false, [(.a, .word 0x1234), (.b, .word 0x0000)]),
    (.dmux16 0x1234 true, [(.a, .word 0x0000), (.b, .word 0x1234)])] = true := by decide

theorem test_or8way : drives [(.or8way 0x00, outSig false), (.or8way 0x01, outSig true), (.or8way 0x80, outSig true),
    (.or8way 0x10, outSig true)] = true := by decide

theorem test_mux4way : drives [(.mux4way false false true false 2, outSig true),
    (.mux4way true false false false 1, outSig false), (.mux4way16 0xA 0xB 0xC 0xD 1, outWord 0xB),
    (.mux4way16 0xA 0xB 0xC 0xD 2, outWord 0xC)] = true := by decide

theorem test_mux8way : drives [(.mux8way false false false false false true false false 5, outSig true),
    (.mux8way false false false false false false false true 6, outSig false),
    (.mux8way16 0 0x1111 0x2222 0x3333 0x4444 0x5555 0x6666 0x7777 6, outWord 0x6666),
    (.mux8way16 0 0x1111 0x2222 0x3333 0x4444 0x5555 0x6666 0x7777 1, outWord 0x1111)] = true := by decide

theorem test_dmux4way : drives [
    (.dmux4way true 1, [(.a, .sig false), (.b, .sig true), (.c, .sig false), (.d, .sig false)]),
    (.dmux4way16 0xBEEF 2, [(.a, .word 0), (.b, .word 0), (.c, .word 0xBEEF), (.d, .word 0)])] = true := by decide

theorem test_dmux8way : drives [
    (.dmux8way true 3, [(.a, .sig false), (.b, .sig false), (.c, .sig false), (.d, .sig true), (.e, .sig false),
      (.f, .sig false), (.g, .sig false), (.h, .sig false)]),
    (.dmux8way16 0x00FF 7, [(.a, .word 0), (.b, .word 0), (.c, .word 0), (.d, .word 0), (.e, .word 0), (.f, .word 0),
      (.g, .word 0), (.h, .word 0x00FF)])] = true := by decide

/-- R8: the source's position 0 is the most significant bit, 15 the least significant. -/
theorem test_source_bit_order : sourceBit 0x8000#16 0 = true ∧ sourceBit 0x0001#16 15 = true := by decide

/-! ### Arithmetic (L1.2 to L1.4, L2.4 to L2.6) -/

theorem test_halfadder : drives [(.halfadder true true, outSumCarry false true),
    (.halfadder true false, outSumCarry true false)] = true := by decide

theorem test_fulladder : drives [(.fulladder false false true, outSumCarry true false),
    (.fulladder false true true, outSumCarry false true), (.fulladder true false true, outSumCarry false true),
    (.fulladder true true false, outSumCarry false true), (.fulladder true true true, outSumCarry true true)] = true := by
  decide

theorem test_add16 : drives [(.add16 0x0011 0xFFFF, outWord 0x0010), (.add16 0x0002 0x0003, outWord 0x0005),
    (.add16 0x00FF 0x0001, outWord 0x0100), (.add16 0xAAAA 0x5556, outWord 0x0000),
    (.add16 0x7FFF 0x0001, outWord 0x8000), (.add16 0x8000 0x8000, outWord 0x0000)] = true := by decide

theorem test_inc16 : drives [(.inc16 0xFFFF, outWord 0x0000), (.inc16 0x7FFF, outWord 0x8000),
    (.inc16 0x00FF, outWord 0x0100)] = true := by decide

/-- The ripple-carry network on vectors of L2.5. -/
theorem test_ripple_network : netAdd16 0xAAAA 0x5556 = 0x0000#16 ∧ netAdd16 0x1234 0x4321 = 0x5555#16 := by
  decide +kernel

/-- L2.6: negation, the most negative value included. -/
theorem test_negation_network : netNeg 0x0005 = 0xFFFB#16 ∧ netNeg 0x8000 = 0x8000#16 := by
  decide +kernel

/-! ### Sequential primitives (L1.5, L2.7, L2.8) -/

theorem test_dff_latch : outs (.dffLatch 7 true) State.reset = some (outSig true) := by decide

/-- R408: evaluated between cycles, a latch moves the clock to the high phase. -/
theorem test_dff_latch_in_high_phase : (after (given [.frame (encode (.dffLatch 7 true))])).env.phase = .high := by decide

theorem test_dff_hold : outs (.dffHold 7 false) (holdingBit (dffRef 7) true) = some (outSig true) := by decide

theorem test_bit_low_phase_holds : outs (.bitHold 1 true true false) State.reset = some (outSig false) := by decide

theorem test_bit_load : outs (.bitLoad 1 true) State.reset = some (outSig true) := by decide

theorem test_register_load : leaves (.registerLoad 2 0x8001) (holding (registerRef 2) 0xFFFF) (registerRef 2)
    = some 0x8001#16 := by decide

theorem test_register_hold : outs (.registerHold 2 0x1111 false true) (holding (registerRef 2) 0xCAFE)
    = some (outWord 0xCAFE) := by decide

/-- L2.8: every row of the PC table, from a count of 5 with `in` = 0x0100. -/
theorem test_pc_table : ([(false, false, false, 0x0005#16), (false, false, true, 0x0006#16),
    (false, true, false, 0x0100#16), (false, true, true, 0x0100#16), (true, false, false, 0x0000#16),
    (true, false, true, 0x0000#16), (true, true, false, 0x0000#16), (true, true, true, 0x0000#16)].all fun r =>
      decide (((select Config.standard 0 .pc [0x0100, r.1.toNat, r.2.1.toNat, r.2.2.1.toNat, 1]).bind fun i =>
        outs i (holding (pcRef 0) 0x0005)) = some (outWord r.2.2.2))) = true := by decide

theorem test_pc_low_phase_holds : outs (.pcHold 0 0 true false false false) (holding (pcRef 0) 0x0007)
    = some (outWord 0x0007) := by decide

theorem test_pc_wraps : leaves (.pcInc 0 0x1234) (holding (pcRef 0) 0xFFFF) (pcRef 0) = some 0x0000#16 := by decide

/-! ### Memories (L1.6, L1.8, L2.9, L2.10) -/

theorem test_ram8_no_aliasing : outs (.ram8Read 0 0 4 false true) (holding (ram8Ref 0 3) 0x00AA)
    = some (outWord 0x0000) := by decide

theorem test_ram64_address : leaves (.ram64Write 0 0x1234 0b101011) State.reset ⟨.ram64, 0, 43⟩ = some 0x1234#16 := by
  decide

theorem test_ram512_top : leaves (.ram512Write 0 0x0F0F 511) State.reset ⟨.ram512, 0, 511⟩ = some 0x0F0F#16 := by decide

theorem test_ram4k_address : leaves (.ram4kWrite 0 0x8000 0x800) State.reset ⟨.ram4k, 0, 2048⟩ = some 0x8000#16 := by
  decide

theorem test_ram16k_top : leaves (.ram16kWrite 0 0x7FFF 0x3FFF) State.reset ⟨.ram16k, 0, 16383⟩ = some 0x7FFF#16 := by
  decide

theorem test_screen_write : outs (.screenWrite 0 0xFFFF 0) State.reset = some (outWord 0xFFFF) := by decide

theorem test_keyboard_read : outs (.keyboardRead 0) (holding (kbdRef 0) 0x0041) = some (outWord 0x0041) := by decide

/-- L2.10 rows 2 to 4: the ends of the RAM and of the screen. -/
theorem test_memory_map_cells :
    leaves (.memRamWrite 0 0x1111 0x3FFF) State.reset ⟨.memRam, 0, 16383⟩ = some 0x1111#16
      ∧ leaves (.memScreenWrite 0 0xFFFF 0x4000) State.reset ⟨.memScreen, 0, 0⟩ = some 0xFFFF#16
      ∧ leaves (.memScreenWrite 0 0x00F0 0x5FFF) State.reset ⟨.memScreen, 0, 8191⟩ = some 0x00F0#16 := by decide

/-- L1.8: a write to the keyboard's address is ignored and shows the key. -/
theorem test_memory_keyboard : outs (.memKbdWrite 0 0xFFFF 0x6000) (holding (memKbdRef 0) 0x0041)
    = some (outWord 0x0041) := by decide

/-- L2.10 row 10. -/
theorem test_unmapped_write : (match exec (.memUnmappedWrite 0 1 0x6001) State.reset with
    | .next t => t.faultMark
    | .fault _ => none
    | .refused _ => none) = some (.unmapped 0x6001) := by decide

/-- L2.10 row 9: the value is free. -/
theorem test_unmapped_read : outs (.memUnmappedRead 0 0 0x7FFF false true) State.reset
    = some (outWord (Config.freeWord 0)) := rfl

/-- R200 on vectors of L2.9: RAM8 number 5, word 3 of a RAM64. -/
theorem test_ram_digits : ramDigits (ramLevels .ram64) 43 = [5, 3] ∧ ramDigits (ramLevels .ram16k) 16383 = [3, 7, 7, 7, 7] := by
  decide

/-! ### Boundary faults (L2.11), the clock and the host (L2.8, L2.12, R311) -/

theorem test_boundary_width : boundary Config.standard .register 0
    [(.inp, [1, 0, 1, 0, 1, 0, 1, 0, 1, 0, 1, 0, 1, 0, 1]), (.load, [1]), (.clock, [1])]
    = .faulted (.width .register .inp 15) := by decide

theorem test_boundary_signal : boundary Config.standard .and 0 [(.a, [2]), (.b, [1])] = .faulted (.signal .and .a) := by
  decide

/-- R303: F_SIGNAL before the F_WIDTH of the 16-bit address. -/
theorem test_boundary_priority : boundary Config.standard .memory 0 [(.inp, digitsOf 16 1), (.address, digitsOf 16 0xC001),
    (.load, [2]), (.clock, [1])] = .faulted (.signal .memory .load) := by decide

/-- The most significant digit comes first. -/
theorem test_boundary_accepts : boundary Config.standard .mux4way 0 [(.a, [0]), (.b, [0]), (.c, [1]), (.d, [0]), (.sel, [1, 0])]
    = .accepted (.mux4way false false true false 2) := by decide

/-- L2.8: a second evaluation in one high phase is refused. -/
theorem test_multi_eval_refused : step (after (given [.frame (encode (.pcInc 0 0)), .frame (encode (.pcInc 0 0))]))
    = .refused (.multiEval .pc 0 .high) := rfl

/-- Log 15: the refusal comes before F_UNMAPPED. -/
theorem test_multi_eval_before_unmapped : step (after (given [.frame (encode (.memRamWrite 0 1 0)),
    .frame (encode (.memUnmappedWrite 0 1 0x6001))])) = .refused (.multiEval .memory 0 .high) := rfl

/-- R301: the codes. -/
theorem test_codes : faultCode (.signal .and .a) = 1 ∧ faultCode (.width .and16 .b 8) = 2 ∧ faultCode (.unmapped 0x6001) = 3
    ∧ refusalCode (.multiEval .pc 0 .high) = some 4 ∧ refusalCode .hostWrite = none := by decide

/-- R403: the next high phase is another matter. -/
theorem test_next_high_phase : ∃ t, step (after (after (given [.frame (encode (.pcInc 0 0)), .advance,
    .frame (encode (.pcInc 0 0))]))) = .next t := ⟨_, rfl⟩

theorem test_host_sets_key : ((after (given [.host (.writeWord (memKbdRef 0) 0x0041)])).readWord (memKbdRef 0)) = 0x0041#16 := by
  decide

theorem test_host_write_refused : step (given [.host (.writeWord (memRamRef 0 0) 1)]) = .refused .hostWrite := rfl

theorem test_host_during_cycle_refused : step (after (given [.advance, .host .stop])) = .refused .hostDuringCycle := rfl

/-- What the clock shows in the first high phase, with REGISTER 0 evaluated. -/
def firstHigh : Env := { Env.initial with phase := .high, cycle := 1, evaluated := [(.register, 0)] }

theorem test_fetch_word_runs : step (State.reset.withFetchWord 8 3)
    = exec (.registerLoad 0 0) { State.reset with env := firstHigh } := rfl

/-! ### Witnesses of the obligations' hypotheses

`witness_<Name>` shows concrete values that meet all hypotheses of `Obligations.<Name>` together; a number follows where
the statement has several clauses with hypotheses of their own. -/

theorem witness_EncodeThenDecode : (Instr.memKbdWrite 0 0x1234 0x6000).wellFormed Config.standard = true
    ∧ (Instr.pcHold 3 0 true true true false).wellFormed Config.standard = true
    ∧ (Instr.screenRead 1 0 15 true false).wellFormed cfgSmall = true := by decide

theorem witness_DecodeThenEncode : decode Config.standard 0x01_25_01E001#176 = .ok (.memUnmappedWrite 1 0 0x6001)
    ∧ decode cfgSmall 0xF_0000_00_23_000002#176 = .ok (.screenRead 0 0 15 false true) := by decide

theorem witness_ControlWordSelectsFirstMatchingRow :
    (Instr.memRamWrite 0 0 0x3FFF).wellFormed Config.standard = true
      ∧ (Instr.memScreenRead 0 0 0x5FFF true false).wellFormed Config.standard = true
      ∧ (Instr.memUnmappedRead 0 0 0x6001 false false).wellFormed Config.standard = true := by decide

theorem witness_EvaluationDrivesItsOutputPorts_1 : exec (.dmux true false) State.reset
    = .next { State.reset with outputs := [(.a, .sig true), (.b, .sig false)] } := rfl

theorem witness_EvaluationDrivesItsOutputPorts_2 : exec (.memUnmappedWrite 0 1 0x6001) State.reset
    = .next { State.reset with faultMark := some (.unmapped 0x6001) } := rfl

theorem witness_GatesArePureFunctions :
    (Instr.add16 1 2).component.sequential = false ∧ (Instr.add16 1 2).component ≠ .keyboard := by decide

theorem witness_ComplementPlusOneNegates : 0x7FFF#16 ≠ 0x8000#16 ∧ 0x8000#16 = 0x8000#16 := by decide

/-- After the load: another register is loaded, and this one is read. -/
def registerRun : List Instr := [.registerLoad 1 0x3333, .registerHold 0 0x1111 true false]

theorem witness_RegisterHoldsUntilTheNextLoad :
    (∃ u t, exec (.registerLoad 0 0xCAFE) State.reset = .next u ∧ execAll registerRun u = some t)
      ∧ ∀ op ∈ registerRun, ∀ w, op ≠ .registerLoad 0 w := by
  refine ⟨⟨_, _, rfl, rfl⟩, fun op hop w => ?_⟩
  simp only [registerRun, List.mem_cons, List.not_mem_nil, or_false] at hop
  rcases hop with rfl | rfl <;> simp

theorem witness_LowPhaseCommitsNothing_1 : clockOf (.pcHold 0 0 true false false false) = some false
    ∧ ∃ t, exec (.pcHold 0 0 true false false false) State.reset = .next t := ⟨rfl, _, rfl⟩

theorem witness_LowPhaseCommitsNothing_2 :
    ∃ t, evaluate (.registerHold 0 1 true false) State.reset = .next t ∧ t.env.phase = .low := ⟨_, rfl, rfl⟩

/-- Steps that commit: a RAM word, and a DFF's bit. -/
theorem witness_LowPhaseCommitsNothing_3 :
    (∃ t, step (given [.frame (encode (.ram8Write 0 7 1))]) = .next t ∧ (ram8Ref 0 1).bank ≠ .kbd
        ∧ (ram8Ref 0 1).bank ≠ .memKbd
        ∧ t.readWord (ram8Ref 0 1) ≠ (given [.frame (encode (.ram8Write 0 7 1))]).readWord (ram8Ref 0 1))
      ∧ ∃ t, step (given [.frame (encode (.dffLatch 7 true))]) = .next t
        ∧ t.readBit (dffRef 7) ≠ (given [.frame (encode (.dffLatch 7 true))]).readBit (dffRef 7) :=
  ⟨⟨_, rfl, by decide, by decide, by decide⟩, ⟨_, rfl, by decide⟩⟩

theorem witness_MainMemoryRamAccess :
    State.reset.config.region 0x0000 = .ram ∧ State.reset.config.region 0x3FFF = .ram := by decide

theorem witness_MainMemoryScreenAccess :
    State.reset.config.region 0x4000 = .screen ∧ State.reset.config.region 0x5FFF = .screen
      ∧ (under cfgSmall).config.region 0x7FE0 = .screen ∧ (under cfgSmall).config.region 0x7FEF = .screen := by decide

theorem witness_UnmappedWriteFaultsOrIsIgnored :
    State.reset.config.unmappedWrite = .fault ∧ (under cfgOther).config.unmappedWrite = .ignore := by decide

theorem witness_UnmappedReadDrawsOrFaults :
    State.reset.config.unmappedRead = .draw ∧ (under cfgOther).config.unmappedRead = .fault := by decide

theorem witness_AddressMapPartitionsTheSpace : Config.standard.wf = true ∧ cfgSmall.wf = true
    ∧ Config.standard.region 0x3FFF = .ram ∧ Config.standard.region 0x4000 = .screen
    ∧ Config.standard.region 0x5FFF = .screen ∧ Config.standard.region 0x6000 = .keyboard
    ∧ Config.standard.region 0x6001 = .unmapped ∧ cfgSmall.region 0x7FFF = .keyboard
    ∧ cfgSmall.region 0x4000 = .unmapped := by decide

theorem witness_MemoryActsInTheSelectedRegionOnly : State.reset.config.region 0x4000 ≠ .ram
    ∧ State.reset.config.region 0x3FFF ≠ .screen ∧ memKbdRef 0 ≠ registerRef 0
    ∧ (memKbdRef 0).bank ≠ .memRam ∧ (memKbdRef 0).bank ≠ .memScreen ∧ (true && false) = false := by decide

/-- The tree whose leaves all hold 0. -/
def zeroTree : List Nat → RamTree
  | [] => .leaf 0
  | w :: ws => .node (List.replicate (2 ^ w) (zeroTree ws))

theorem zeroTree_shaped (ws : List Nat) : (zeroTree ws).shaped ws := by
  induction ws with
  | nil => trivial
  | cons w ws ih => exact ⟨List.length_replicate, fun _ h => (List.eq_of_mem_replicate h) ▸ ih⟩

theorem zeroTree_words (ws : List Nat) : (zeroTree ws).words ws.length = List.replicate (2 ^ ws.sum) 0 := by
  induction ws with
  | nil => rfl
  | cons w ws ih =>
    have h : ∀ n : Nat, (List.replicate n (zeroTree ws)).flatMap (RamTree.words ws.length)
        = List.replicate (n * 2 ^ ws.sum) 0 := by
      intro n
      induction n with
      | zero => simp
      | succ n hn => rw [List.replicate_succ, List.flatMap_cons, ih, hn, List.replicate_append_replicate]; congr 1; ring
    rw [List.sum_cons, pow_add]
    exact h _

theorem witness_RamTreeBehavesAsAnArray :
    (zeroTree [2, 3]).shaped [2, 3] ∧ 0 < 2 ^ [2, 3].sum ∧ 31 < 2 ^ [2, 3].sum := ⟨zeroTree_shaped _, by decide, by decide⟩

/-- At power-on the tree of zeros holds what a RAM's words hold. -/
theorem zeroTree_represents {k : Nat} (levels : List Nat) (ref : BitVec k → WordRef) (h : levels.sum = k)
    (hz : ∀ a, State.reset.readWord (ref a) = 0) : Represents levels ref (zeroTree levels) State.reset := by
  intro a
  rw [zeroTree_words, hz a]
  exact List.getElem?_replicate_of_lt (by rw [h]; exact a.isLt)

theorem witness_RamOperationsSimulateTheTrees :
    ((zeroTree (ramLevels .ram8)).shaped (ramLevels .ram8)
      ∧ Represents (ramLevels .ram8) (ram8Ref 0) (zeroTree (ramLevels .ram8)) State.reset)
    ∧ ((zeroTree (ramLevels .ram64)).shaped (ramLevels .ram64)
      ∧ Represents (ramLevels .ram64) (ram64Ref 0) (zeroTree (ramLevels .ram64)) State.reset)
    ∧ ((zeroTree (ramLevels .ram512)).shaped (ramLevels .ram512)
      ∧ Represents (ramLevels .ram512) (ram512Ref 0) (zeroTree (ramLevels .ram512)) State.reset)
    ∧ ((zeroTree (ramLevels .ram4k)).shaped (ramLevels .ram4k)
      ∧ Represents (ramLevels .ram4k) (ram4kRef 0) (zeroTree (ramLevels .ram4k)) State.reset)
    ∧ ((zeroTree (ramLevels .ram16k)).shaped (ramLevels .ram16k)
      ∧ Represents (ramLevels .ram16k) (ram16kRef 0) (zeroTree (ramLevels .ram16k)) State.reset) :=
  ⟨⟨zeroTree_shaped _, zeroTree_represents _ _ rfl fun _ => rfl⟩,
    ⟨zeroTree_shaped _, zeroTree_represents _ _ rfl fun _ => rfl⟩,
    ⟨zeroTree_shaped _, zeroTree_represents _ _ rfl fun _ => rfl⟩,
    ⟨zeroTree_shaped _, zeroTree_represents _ _ rfl fun _ => rfl⟩,
    ⟨zeroTree_shaped _, zeroTree_represents _ _ rfl fun _ => rfl⟩⟩

theorem witness_RepeatingAMemoryEvaluationChangesNothing : (Instr.ram8Write 0 7 1).component ≠ .pc
    ∧ ∃ t u, exec (.ram8Write 0 7 1) State.reset = .next t ∧ exec (.ram8Write 0 7 1) t = .next u :=
  ⟨by decide, _, _, rfl, rfl⟩

theorem witness_OnlyTheNamedWritersChangeAnElement_1 : ∃ t, exec (.ram8Write 0 7 1) State.reset = .next t
    ∧ t.readWord (ram8Ref 0 1) ≠ State.reset.readWord (ram8Ref 0 1) := ⟨_, rfl, by decide⟩

theorem witness_OnlyTheNamedWritersChangeAnElement_2 : ∃ t, exec (.bitLoad 4 true) State.reset = .next t
    ∧ t.readBit (bitRef 4) ≠ State.reset.readBit (bitRef 4) := ⟨_, rfl, by decide⟩

theorem witness_EvaluationOrderDoesNotMatterForFixedInputs :
    ((Instr.registerLoad 1 2).component, (Instr.registerLoad 1 2).inst) ≠ ((Instr.registerLoad 2 1).component, (Instr.registerLoad 2 1).inst)
      ∧ ∃ s₁ s₂ t₁ t₂, exec (.registerLoad 1 2) State.reset = .next s₁ ∧ exec (.registerLoad 2 1) s₁ = .next s₂
        ∧ exec (.registerLoad 2 1) State.reset = .next t₁ ∧ exec (.registerLoad 1 2) t₁ = .next t₂ :=
  ⟨by decide, _, _, _, _, rfl, rfl, rfl, rfl⟩

/-- A step whose input is the frame of `i`, from a state with nothing wrong. -/
def readyFor (i : Instr) (s : State) : Prop :=
  s.faultMark = none ∧ s.env.stopped = false ∧ s.env.schedule = [.frame (encode i)] ∧ decode s.config (encode i) = .ok i

/-- A gate; a sequential evaluation that is new in its phase. -/
theorem witness_StepRunsTheDecodedOperation_1 :
    readyFor (.add16 1 2) (given [.frame (encode (.add16 1 2))])
      ∧ readyFor (.ram8Write 0 7 1) (given [.frame (encode (.ram8Write 0 7 1))])
      ∧ (Component.ram8, (0 : Inst)) ∉ (Env.initial.forClock (some true)).evaluated :=
  ⟨⟨rfl, rfl, rfl, rfl⟩, ⟨rfl, rfl, rfl, rfl⟩, by decide⟩

/-- A sequential evaluation that is the second in its phase. -/
theorem witness_StepRunsTheDecodedOperation_2 :
    readyFor (.pcInc 0 0) (after (given [.frame (encode (.pcInc 0 0)), .frame (encode (.pcInc 0 0))]))
      ∧ (Component.pc, (0 : Inst)) ∈
        ((after (given [.frame (encode (.pcInc 0 0)), .frame (encode (.pcInc 0 0))])).env.forClock (some true)).evaluated :=
  ⟨⟨rfl, rfl, rfl, rfl⟩, by decide⟩

theorem witness_SecondEvaluationInAPhaseIsRefused : (Instr.pcInc 0 0).component.sequential = true
    ∧ (∃ t, evaluate (.pcInc 0 0) State.reset = .next t)
    ∧ (Instr.pcLoad 0 5 true).component = (Instr.pcInc 0 0).component ∧ (Instr.pcLoad 0 5 true).inst = (Instr.pcInc 0 0).inst
    ∧ (clockOf (.pcLoad 0 5 true) = clockOf (.pcInc 0 0) ∨ clockOf (.pcLoad 0 5 true) = none) :=
  ⟨rfl, ⟨_, rfl⟩, rfl, rfl, .inl rfl⟩

/-- A DFF that holds after it has latched, in the same phase. -/
theorem witness_SecondEvaluationInAPhaseIsRefused_2 : (Instr.dffLatch 7 true).component.sequential = true
    ∧ (∃ t, evaluate (.dffLatch 7 true) State.reset = .next t)
    ∧ (Instr.dffHold 7 true).component = (Instr.dffLatch 7 true).component
    ∧ (Instr.dffHold 7 true).inst = (Instr.dffLatch 7 true).inst
    ∧ (clockOf (.dffHold 7 true) = clockOf (.dffLatch 7 true) ∨ clockOf (.dffHold 7 true) = none) :=
  ⟨rfl, ⟨_, rfl⟩, rfl, rfl, .inr rfl⟩

theorem witness_ClockOnlyMovesForward_1 : ∃ t, step (given [.advance]) = .next t ∧ t.env.time ≠ (given [.advance]).env.time :=
  ⟨_, rfl, by decide⟩

theorem witness_ClockOnlyMovesForward_2 : ∃ t, step (after (given [.frame (encode (.pcInc 0 0)), .frame (encode (.bitLoad 0 true))])) = .next t
    ∧ t.env.time = (after (given [.frame (encode (.pcInc 0 0)), .frame (encode (.bitLoad 0 true))])).env.time
    ∧ (Component.pc, (0 : Inst)) ∈ (after (given [.frame (encode (.pcInc 0 0)), .frame (encode (.bitLoad 0 true))])).env.evaluated :=
  ⟨_, rfl, rfl, by decide⟩

theorem witness_PhasesAlternate_1 : Env.initial.phase = .between ∧ Env.initial.advance.phase = .low
    ∧ Env.initial.advance.advance.phase = .high := by decide

theorem witness_PhasesAlternate_2 : (∃ t, evaluate (.registerLoad 0 1) State.reset = .next t) ∧ clockOf (.registerLoad 0 1) = some true
    ∧ (∃ t, evaluate (.registerHold 0 1 true false) State.reset = .next t)
    ∧ clockOf (.registerHold 0 1 true false) = some false := ⟨⟨_, rfl⟩, rfl, ⟨_, rfl⟩, rfl⟩

/-- A digit 2 and a wrong width in one evaluation. -/
def badDigits : List (PortName × RawValue) := [(.inp, [1, 0]), (.load, [2]), (.clock, [1])]

/-- A word of two bits at a 16-bit port. -/
def badWord : List (PortName × RawValue) := [(.inp, [1, 0]), (.load, [1]), (.clock, [1])]

theorem witness_IllegalInputsFaultAtTheBoundary_1 :
    badDigits.map Prod.fst = (Component.register.inputs State.reset.config).map Prod.fst
      ∧ ∃ v ∈ badDigits, ∃ d ∈ v.2, 1 < d := by decide

theorem witness_IllegalInputsFaultAtTheBoundary_2 :
    badWord.map Prod.fst = (Component.register.inputs State.reset.config).map Prod.fst ∧ (∀ v ∈ badWord, ∀ d ∈ v.2, d ≤ 1)
      ∧ badWord.map (fun v => (v.1, v.2.length)) ≠ Component.register.inputs State.reset.config := by decide

theorem witness_LegalPortsRunTheOperation : (Instr.memKbdRead 0 5 0x6000 true false).wellFormed State.reset.config = true
    ∧ (Instr.screenWrite 0 5 15).wellFormed (under cfgSmall).config = true := by decide

/-- A block that has faulted. -/
def faulted : State := State.reset.raiseFault (.unmapped 0x6001)

theorem witness_FaultedBlockTakesNoStep : faulted.faultMark = some (.unmapped 0x6001) := rfl

theorem witness_HostMovesOnlyBetweenCycles_1 : (after (given [.advance])).env.phase ≠ .between := by decide

theorem witness_HostMovesOnlyBetweenCycles_2 : State.reset.env.phase = .between
    ∧ (memRamRef 0 0x3FFF).inRange State.reset.config = true
    ∧ ((kbdRef 0).bank = .kbd ∨ (kbdRef 0).bank = .memKbd) ∧ (kbdRef 0).addr = 0
    ∧ ((memKbdRef 0).bank = .kbd ∨ (memKbdRef 0).bank = .memKbd) ∧ (memKbdRef 0).addr = 0
    ∧ (registerRef 0).bank ≠ .kbd ∧ (registerRef 0).bank ≠ .memKbd ∧ State.reset.faultMark = none := by decide

theorem witness_OnlyTheHostChangesAKeyboardValue : ((memKbdRef 0).bank = .kbd ∨ (memKbdRef 0).bank = .memKbd)
    ∧ ∃ t, step (given [.host (.writeWord (memKbdRef 0) 0x0041)]) = .next t
      ∧ t.readWord (memKbdRef 0) ≠ (given [.host (.writeWord (memKbdRef 0) 0x0041)]).readWord (memKbdRef 0) :=
  ⟨.inr rfl, _, rfl, by decide⟩

theorem witness_StepsKeepTheParameters : ∃ t, step (given [.advance]) = .next t := ⟨_, rfl⟩

theorem witness_WaitingChangesNothing :
    State.reset.faultMark = none ∧ State.reset.env.stopped = false ∧ State.reset.env.schedule = [] := ⟨rfl, rfl, rfl⟩

theorem witness_PowerOnValues : Config.standard.powerOn = .zero ∧ ((kbdRef 0).bank = .kbd ∨ (kbdRef 0).bank = .memKbd)
    ∧ ((memKbdRef 0).bank = .kbd ∨ (memKbdRef 0).bank = .memKbd) := by decide

theorem witness_PowerOnMeetsTheInvariant : Config.standard.wf = true ∧ cfgOther.wf = true ∧ cfgSmall.wf = true := by decide

/-- The power-on machine with inputs to come meets the invariant. -/
theorem given_inv (inputs : List Input) : (given inputs).Inv where
  config := (by decide : Config.standard.wf = true)
  canonical := ⟨fun b => by cases b <;> exact Memory.wf_nil _, fun b => by cases b <;> exact Memory.wf_nil _⟩
  inRange := ⟨fun b => by cases b <;> exact fun _ h => absurd h List.not_mem_nil,
    fun b => by cases b <;> exact fun _ h => absurd h List.not_mem_nil⟩
  faultSilent := fun _ => rfl
  freshBetween := fun _ => rfl
  once := List.nodup_nil
  stoppedBetween := fun _ => rfl

theorem witness_StepKeepsTheInvariant : (given [.frame (encode (.memScreenWrite 0 7 0x5FFF))]).Inv
    ∧ ∃ t, step (given [.frame (encode (.memScreenWrite 0 7 0x5FFF))]) = .next t := ⟨given_inv _, _, rfl⟩

end Sys2Proof.Tests
end

section
/-! PROOFS. What each layer of a step can do, said once (host move, evaluation, input, step), and from it the statement
about the keyboard values (10_state.md R27). -/

namespace Sys2Proof.Machine

/-! ### Inversion of the layers of a step -/

/-- R311: a host move that succeeds does so between cycles; it inspects an element, sets a keyboard value, or stops the
run. -/
theorem hostMove_next {m : HostMove} {s t : State} (h : hostMove m s = .next t) :
    s.env.phase = .between ∧
      ((∃ e, m = .readWord e ∧ e.inRange s.config = true
          ∧ t = { s with env := { s.env with inspected := some (.word (s.readWord e)) } })
        ∨ (∃ e, m = .readBit e ∧ t = { s with env := { s.env with inspected := some (.sig (s.readBit e)) } })
        ∨ (∃ e v, m = .writeWord e v ∧ e.isKeyboard = true ∧ e.inRange s.config = true ∧ t = s.commitWord e v)
        ∨ (m = .stop ∧ t = { s with env := { s.env with stopped := true } })) := by
  unfold hostMove at h
  split at h
  case isFalse => cases h
  case isTrue hphase =>
    refine ⟨hphase, ?_⟩
    cases m with
    | readWord e =>
      simp only at h
      split at h
      · exact .inl ⟨e, rfl, ‹_›, (Host.Outcome.next.inj h).symm⟩
      · cases h
    | readBit e => exact .inr (.inl ⟨e, rfl, (Host.Outcome.next.inj h).symm⟩)
    | writeWord e v =>
      simp only at h
      split at h
      next hlegal =>
        obtain ⟨hkbd, hrange⟩ := Bool.and_eq_true_iff.mp hlegal
        exact .inr (.inr (.inl ⟨e, v, rfl, hkbd, hrange, (Host.Outcome.next.inj h).symm⟩))
      · cases h
    | writeBit e v => cases h
    | stop => exact .inr (.inr (.inr ⟨rfl, (Host.Outcome.next.inj h).symm⟩))

/-- R405: an evaluation that succeeds is `exec` after the clock has taken its position; a sequential component was not yet
evaluated in the phase, and is marked. -/
theorem evaluate_next {i : Instr} {s t : State} (h : evaluate i s = .next t) :
    (i.component.sequential = true ∧ (i.component, i.inst) ∉ (s.env.forClock (clockOf i)).evaluated
        ∧ exec i { s with env := { s.env.forClock (clockOf i) with
            evaluated := (i.component, i.inst) :: (s.env.forClock (clockOf i)).evaluated } } = .next t)
      ∨ (i.component.sequential = false ∧ exec i { s with env := s.env.forClock (clockOf i) } = .next t) := by
  simp only [evaluate] at h
  split at h
  next hseq =>
    split at h
    · cases h
    · exact .inl ⟨hseq, ‹_›, h⟩
  next hseq => exact .inr ⟨by simpa using hseq, h⟩

/-- An input that succeeds is an evaluation, a fault at the boundary, a move of the clock, or a move of the host. -/
theorem runInput_next {x : Input} {s t : State} (h : runInput x s = .next t) :
    (∃ f i, x = .frame f ∧ decode s.config f = .ok i ∧ evaluate i s = .next t)
      ∨ (∃ c n values i, x = .ports c n values ∧ boundary s.config c n values = .accepted i ∧ evaluate i s = .next t)
      ∨ (∃ c n values f, x = .ports c n values ∧ boundary s.config c n values = .faulted f ∧ t = s.raiseFault f)
      ∨ (x = .advance ∧ t = { s with env := s.env.advance })
      ∨ ∃ m, x = .host m ∧ hostMove m s = .next t := by
  cases x with
  | frame f =>
    simp only [runInput] at h
    split at h
    · exact .inl ⟨f, _, rfl, ‹_›, h⟩
    · cases h
  | ports c n values =>
    simp only [runInput] at h
    split at h
    · exact .inr (.inl ⟨c, n, values, _, rfl, ‹_›, h⟩)
    · exact .inr (.inr (.inl ⟨c, n, values, _, rfl, ‹_›, evalFault_next h⟩))
    · cases h
  | advance => exact .inr (.inr (.inr (.inl ⟨rfl, (Host.Outcome.next.inj h).symm⟩)))
  | host m => exact .inr (.inr (.inr (.inr ⟨m, rfl, h⟩)))

/-- A step that succeeds starts from a block that has neither faulted nor been stopped; it waits, or takes the next input
of the schedule. -/
theorem step_next {s t : State} (h : step s = .next t) :
    s.faultMark = none ∧ s.env.stopped = false ∧
      ((s.env.schedule = [] ∧ t = s)
        ∨ ∃ x rest, s.env.schedule = x :: rest
            ∧ runInput x { s with env := { s.env with schedule := rest } } = .next t) := by
  unfold step at h
  split at h
  · cases h
  next hmark =>
    split at h
    · cases h
    next hrun =>
      refine ⟨hmark, by simpa using hrun, ?_⟩
      split at h
      · exact .inl ⟨‹_›, (Host.Outcome.next.inj h).symm⟩
      · exact .inr ⟨_, _, ‹_›, h⟩

/-! ### Who changes a word -/

/-- R32: an operation that changes a word is one of the word's writers, at the component that holds it, under a high clock. -/
theorem exec_changed_word {i : Instr} {s t : State} {e : WordRef} (h : exec i s = .next t)
    (hne : t.readWord e ≠ s.readWord e) :
    i.mnemonic ∈ wordWriters e.bank ∧ e.i = i.inst ∧ clockOf i = some true := by
  rcases exec_cases i s with ⟨o, h'⟩ | ⟨e', v, h', hmem, hinst, hclock, -⟩ | ⟨b, v, h', -⟩ | ⟨h', -⟩ | ⟨f, h', -⟩ <;>
    obtain rfl := Host.Outcome.next.inj (h'.symm.trans h)
  case inr.inl =>
    have he : e = e' := by
      by_contra hother
      exact hne ((s.changesOnlyWord_commit e' v _).words e hother)
    exact he ▸ ⟨hmem, hinst, hclock⟩
  all_goals exact absurd (by simp) hne

/-- The same of an evaluation: the clock's move before it changes no word. -/
theorem evaluate_changed_word {i : Instr} {s t : State} {e : WordRef} (h : evaluate i s = .next t)
    (hne : t.readWord e ≠ s.readWord e) :
    i.mnemonic ∈ wordWriters e.bank ∧ e.i = i.inst ∧ clockOf i = some true := by
  rcases evaluate_next h with ⟨-, -, hexec⟩ | ⟨-, hexec⟩
  · exact exec_changed_word hexec hne
  · exact exec_changed_word hexec hne

/-- R311: a host move that changes a word is the write of its new value, between cycles. -/
theorem hostMove_changed_word {m : HostMove} {s t : State} {e : WordRef} (h : hostMove m s = .next t)
    (hne : t.readWord e ≠ s.readWord e) :
    s.env.phase = .between ∧ m = .writeWord e (t.readWord e) := by
  obtain ⟨hphase, ⟨e', -, -, rfl⟩ | ⟨b, -, rfl⟩ | ⟨e', v, rfl, -, -, rfl⟩ | ⟨-, rfl⟩⟩ := hostMove_next h
  · exact absurd rfl hne
  · exact absurd rfl hne
  · have he : e = e' := by
      by_contra hother
      exact hne (s.readWord_commitWord_other hother v)
    subst he
    exact ⟨hphase, by simp⟩
  · exact absurd rfl hne

/-- An input that changes a word is an evaluation of one of the word's writers, or the host's write between cycles. -/
theorem runInput_changed_word {x : Input} {s t : State} {e : WordRef} (h : runInput x s = .next t)
    (hne : t.readWord e ≠ s.readWord e) :
    (∃ i, evaluate i s = .next t ∧ i.mnemonic ∈ wordWriters e.bank)
      ∨ (s.env.phase = .between ∧ x = .host (.writeWord e (t.readWord e))) := by
  rcases runInput_next h with ⟨f, i, -, -, heval⟩ | ⟨c, n, values, i, -, -, heval⟩ | ⟨c, n, values, f, -, -, rfl⟩
    | ⟨-, rfl⟩ | ⟨m, rfl, hmove⟩
  · exact .inl ⟨i, heval, (evaluate_changed_word heval hne).1⟩
  · exact .inl ⟨i, heval, (evaluate_changed_word heval hne).1⟩
  · exact absurd rfl hne
  · exact absurd rfl hne
  · obtain ⟨hphase, rfl⟩ := hostMove_changed_word hmove hne
    exact .inr ⟨hphase, rfl⟩

/-- R32: no operation writes a keyboard value. -/
theorem wordWriters_keyboard {b : WordBank} (h : b = .kbd ∨ b = .memKbd) : wordWriters b = [] := by
  rcases h with rfl | rfl <;> rfl

/-- Settles O55: the step takes an input that changes the word; no operation writes a keyboard value, so that input is
the host's write. -/
theorem onlyTheHostChangesAKeyboardValue : Obligations.OnlyTheHostChangesAKeyboardValue := by
  intro s t e hkbd h hne
  obtain ⟨-, -, ⟨-, rfl⟩ | ⟨x, rest, hschedule, hrun⟩⟩ := step_next h
  · exact absurd rfl hne
  · rcases runInput_changed_word hrun hne with ⟨i, -, hwriter⟩ | ⟨hphase, rfl⟩
    · rw [wordWriters_keyboard hkbd] at hwriter
      exact absurd hwriter List.not_mem_nil
    · exact ⟨hphase, rest, hschedule⟩

end Sys2Proof.Machine
end

section
/-! PROOFS. A write of one word followed by a read of another, said once for the words of any RAM, and from it the
statement that different addresses do not alias (10_state.md R51). -/

namespace Sys2Proof.Machine

/-- A read after a commit, whichever word it reads. -/
theorem State.readWord_commitWord (s : State) (e e' : WordRef) (v : Word) :
    (s.commitWord e v).readWord e' = if e' = e then v else s.readWord e' := by
  split
  case isTrue h => rw [h, readWord_commitWord_same]
  case isFalse h => exact s.readWord_commitWord_other h v

/-- R51: widening an address of at most 15 bits to the model's own loses no bit, so it names the word of that address
only. -/
theorem WordRef.setWidth_addr_inj {n : Nat} (hn : n ≤ 15) (bank : WordBank) (i : Inst) {a b : BitVec n} :
    (⟨bank, i, b.setWidth 15⟩ : WordRef) = ⟨bank, i, a.setWidth 15⟩ ↔ b = a := by
  constructor
  case mpr => rintro rfl; rfl
  case mp =>
    intro h
    have haddr : (b.setWidth 15).toNat = (a.setWidth 15).toNat := congrArg (·.addr.toNat) h
    rw [BitVec.toNat_setWidth_of_le hn, BitVec.toNat_setWidth_of_le hn] at haddr
    exact BitVec.eq_of_toNat_eq haddr

/-- A committing evaluation at one address and a reading evaluation at another, of one array with addresses of at most
15 bits. -/
theorem evalCommitWord_then_evalReadWord {n : Nat} (hn : n ≤ 15) (bank : WordBank) (i : Inst) (w : Word) (s : State)
    (a b : BitVec n) :
    ∃ t, evalCommitWord ⟨bank, i, a.setWidth 15⟩ w s = .next t
      ∧ evalReadWord ⟨bank, i, b.setWidth 15⟩ t
        = .next { t with outputs := outWord (if b = a then w else s.readWord ⟨bank, i, b.setWidth 15⟩) } := by
  refine ⟨_, rfl, ?_⟩
  rw [evalReadWord, State.readWord_drive, State.readWord_commitWord]
  simp only [WordRef.setWidth_addr_inj hn, State.drive]

/-- Settles O32: every RAM's write and read are the two evaluations of a word at the widened address. -/
theorem addressesDoNotAlias : Obligations.AddressesDoNotAlias := by
  intro i w x load clock s
  refine ⟨?ram8, ?ram64, ?ram512, ?ram4k, ?ram16k⟩
  case ram8 => exact evalCommitWord_then_evalReadWord (by decide) .ram8 i w s
  case ram64 => exact evalCommitWord_then_evalReadWord (by decide) .ram64 i w s
  case ram512 => exact evalCommitWord_then_evalReadWord (by decide) .ram512 i w s
  case ram4k => exact evalCommitWord_then_evalReadWord (by decide) .ram4k i w s
  case ram16k => exact evalCommitWord_then_evalReadWord (by decide) .ram16k i w s

end Sys2Proof.Machine
end

section
/-! PROOFS. What the basic 1-bit and 16-bit gates drive, one equation each, the truth tables of the 1-bit ones, and from
them the statements about the tables (40_gates.md R103 to R105) and about the word gates (R108 to R110). -/

namespace Sys2Proof.Machine

/-! ### What each gate drives -/

@[simp] theorem exec_and (a b : Sig) (s : State) : exec (.and a b) s = .next (s.drive (outSig (a && b))) := rfl
@[simp] theorem exec_or (a b : Sig) (s : State) : exec (.or a b) s = .next (s.drive (outSig (a || b))) := rfl
@[simp] theorem exec_xor (a b : Sig) (s : State) : exec (.xor a b) s = .next (s.drive (outSig (a ^^ b))) := rfl
@[simp] theorem exec_not16 (a : Word) (s : State) : exec (.not16 a) s = .next (s.drive (outWord (~~~a))) := rfl
@[simp] theorem exec_and16 (a b : Word) (s : State) : exec (.and16 a b) s = .next (s.drive (outWord (a &&& b))) := rfl
@[simp] theorem exec_or16 (a b : Word) (s : State) : exec (.or16 a b) s = .next (s.drive (outWord (a ||| b))) := rfl

/-! ### The truth tables, row by row -/

theorem and_eq_ite (a b : Sig) : (a && b) = if a = true ∧ b = true then true else false := by
  cases a <;> cases b <;> rfl

theorem or_eq_ite (a b : Sig) : (a || b) = if a = true ∨ b = true then true else false := by
  cases a <;> cases b <;> rfl

theorem xor_eq_ite (a b : Sig) : (a ^^ b) = if a = b then false else true := by
  cases a <;> cases b <;> rfl

/-- Settles O6: each gate drives its Boolean function, whose four rows are those of its table. -/
theorem andOrXorMatchTheirTruthTables : Obligations.AndOrXorMatchTheirTruthTables := by
  intro a b s
  refine ⟨?and, ?or, ?xor⟩
  case and => rw [exec_and, and_eq_ite]; rfl
  case or => rw [exec_or, or_eq_ite]; rfl
  case xor => rw [exec_xor, xor_eq_ite]; rfl

/-- Settles O9: each word gate drives the bitwise operation on its inputs, which acts at every position; the complement
does so at the positions of the word only, so its case needs that `k` is one. -/
theorem wordGatesActAtEveryPosition : Obligations.WordGatesActAtEveryPosition := by
  intro a b s
  refine ⟨~~~a, a &&& b, a ||| b, exec_not16 a s, exec_and16 a b s, exec_or16 a b s, fun k hk => ⟨?not, ?and, ?or⟩⟩
  case not => rw [BitVec.getLsbD_not, decide_eq_true hk, Bool.true_and]
  case and => exact BitVec.getLsbD_and
  case or => exact BitVec.getLsbD_or

end Sys2Proof.Machine
end

section
/-! PROOFS. What the half-adder, the adder and the incrementer drive, one equation each, the arithmetic of their truth
functions, and from them the statements about the half-adder (41_arithmetic.md R140) and the incrementer (R143). -/

namespace Sys2Proof.Machine

/-! ### What each unit drives -/

@[simp] theorem exec_halfadder (a b : Sig) (s : State) :
    exec (.halfadder a b) s = .next (s.drive (outSumCarry (halfSum a b) (halfCarry a b))) := rfl
@[simp] theorem exec_add16 (a b : Word) (s : State) : exec (.add16 a b) s = .next (s.drive (outWord (addWords a b))) := rfl

/-- R143: "Add(a, bit-pattern-for-one)". -/
@[simp] theorem exec_inc16 (w : Word) (s : State) : exec (.inc16 w) s = exec (.add16 w 0x0001#16) s := rfl

/-! ### The arithmetic of the truth functions -/

/-- R140: the two outputs are the digits of the sum of the inputs. -/
theorem two_mul_halfCarry_add_halfSum (a b : Sig) :
    2 * (halfCarry a b).toNat + (halfSum a b).toNat = a.toNat + b.toNat := by
  cases a <;> cases b <;> rfl

/-- R142: the last carry is discarded. -/
@[simp] theorem uval_addWords (a b : Word) : uval (addWords a b) = (uval a + uval b) % 2 ^ 16 := BitVec.toNat_add a b

/-- Settles O16: the half-adder drives its two truth functions, and in each of their four rows these are the digits of
the sum. -/
theorem halfAdderGivesSumAndCarry : Obligations.HalfAdderGivesSumAndCarry := by
  intro a b s
  exact ⟨halfSum a b, halfCarry a b, exec_halfadder a b s, rfl, rfl, two_mul_halfCarry_add_halfSum a b⟩

/-- Settles O19: the incrementer runs the adder with the constant one, whose unsigned value is 1. -/
theorem inc16AddsOne : Obligations.Inc16AddsOne := by
  intro w s
  have hadd : exec (.add16 w 0x0001#16) s = .next (s.drive (outWord (addWords w 0x0001#16))) := exec_add16 w 0x0001#16 s
  exact ⟨addWords w 0x0001#16, (exec_inc16 w s).trans hadd, hadd, uval_addWords w 0x0001#16⟩

end Sys2Proof.Machine
end

section
/-! PROOFS. What the operations of a REGISTER and a PC do, one equation each; which words a sequence of evaluations
keeps, by induction on the sequence; and from them the statements about REGISTER.LOAD, REGISTER.HOLD and the PC
(42_sequential.md R166, R167, R169 to R171). -/

namespace Sys2Proof.Machine

/-! ### What each operation does -/

@[simp] theorem exec_registerLoad (i : Inst) (x : Word) (s : State) :
    exec (.registerLoad i x) s = evalCommitWord (registerRef i) x s := rfl
@[simp] theorem exec_registerHold (i : Inst) (x : Word) (load clock : Sig) (s : State) :
    exec (.registerHold i x load clock) s = .next (s.drive (outWord (s.readWord (registerRef i)))) := rfl
@[simp] theorem exec_pcLoad (i : Inst) (x : Word) (inc : Sig) (s : State) :
    exec (.pcLoad i x inc) s = evalCommitWord (pcRef i) x s := rfl

/-- R170: it is the held count that is incremented, not the input. -/
@[simp] theorem exec_pcInc (i : Inst) (x : Word) (s : State) :
    exec (.pcInc i x) s = evalCommitWord (pcRef i) (incWord (s.readWord (pcRef i))) s := rfl
@[simp] theorem exec_pcHold (i : Inst) (x : Word) (reset load inc clock : Sig) (s : State) :
    exec (.pcHold i x reset load inc clock) s = .next (s.drive (outWord (s.readWord (pcRef i)))) := rfl

/-- R160: a committing evaluation of a word completes; `evalCommitWord_next` says in which state. -/
theorem evalCommitWord_completes (e : WordRef) (v : Word) (s : State) :
    ∃ t, evalCommitWord e v s = .next t ∧ t.readWord e = v ∧ t.outputs = outWord v ∧ s.ChangesOnlyWord e t :=
  ⟨_, rfl, evalCommitWord_next rfl⟩

/-- R143: the incrementer wraps at 2^16. -/
theorem uval_incWord (w : Word) : uval (incWord w) = (uval w + 1) % 2 ^ 16 := uval_addWords w 0x0001#16

/-! ### What a sequence of evaluations keeps -/

/-- A sequence completes when its first evaluation does and the rest completes from the state it answers. -/
theorem execAll_cons_eq_some {op : Instr} {ops : List Instr} {s t : State} :
    execAll (op :: ops) s = some t ↔ ∃ u, exec op s = .next u ∧ execAll ops u = some t := by
  rw [execAll]
  cases exec op s <;> simp

/-- A word that none of the evaluations changes, in whatever state it takes place, is the same at the end. -/
theorem execAll_keeps_word {e : WordRef} {ops : List Instr} {s t : State}
    (hkeep : ∀ op ∈ ops, ∀ {u u' : State}, exec op u = .next u' → u'.readWord e = u.readWord e)
    (h : execAll ops s = some t) : t.readWord e = s.readWord e := by
  induction ops generalizing s with
  | nil => rw [Option.some.inj h]
  | cons op ops ih =>
    obtain ⟨u, hfirst, hrest⟩ := execAll_cons_eq_some.mp h
    calc t.readWord e
      _ = u.readWord e := ih (fun op' hmem => hkeep op' (List.mem_cons_of_mem op hmem)) hrest
      _ = s.readWord e := hkeep op List.mem_cons_self hfirst

/-- R32: the only operation that writes a register is REGISTER.LOAD. -/
theorem registerLoad_of_mem_wordWriters {op : Instr} (h : op.mnemonic ∈ wordWriters .register) :
    ∃ w, op = .registerLoad op.inst w := by
  cases op
  case registerLoad i w => exact ⟨w, rfl⟩
  all_goals simp [Instr.mnemonic, wordWriters] at h

/-- R167: an evaluation that is no load of the register keeps its word. -/
theorem exec_keeps_register {i : Inst} {op : Instr} {s t : State} (hop : ∀ w, op ≠ .registerLoad i w)
    (h : exec op s = .next t) : t.readWord (registerRef i) = s.readWord (registerRef i) := by
  by_contra hne
  obtain ⟨hwriter, hinst, -⟩ := exec_changed_word h hne
  obtain ⟨w, hload⟩ := registerLoad_of_mem_wordWriters hwriter
  have hi : op.inst = i := hinst.symm
  exact hop w (hi ▸ hload)

/-! ### The statements -/

/-- Settles O24: REGISTER.HOLD drives the stored word, which after the load is its operand and which the evaluations
after it keep. -/
theorem registerHoldsUntilTheNextLoad : Obligations.RegisterHoldsUntilTheNextLoad := by
  intro i x load clock
  refine ⟨exec_registerHold i x load clock, fun v ops s u t hload hops hrun => ?_⟩
  have hword : t.readWord (registerRef i) = v := calc
    t.readWord (registerRef i)
    _ = u.readWord (registerRef i) := execAll_keeps_word (fun op hmem => exec_keeps_register (hops op hmem)) hrun
    _ = v := (evalCommitWord_next hload).1
  rw [exec_registerHold, hword]
  rfl

/-- Settles O23: REGISTER.LOAD is a committing evaluation of the register's word. -/
theorem registerLoadCommitsTheWord : Obligations.RegisterLoadCommitsTheWord := by
  intro i x s
  rw [exec_registerLoad]
  exact evalCommitWord_completes (registerRef i) x s

/-- Settles O26: PC.LOAD and PC.INC are committing evaluations of the count, with the input and with the incremented
count; PC.HOLD is a reading one. -/
theorem pcLoadIncHoldGiveTheNextCount : Obligations.PcLoadIncHoldGiveTheNextCount := by
  intro i x reset load inc clock s
  refine ⟨?load, ?inc, ?hold⟩
  case load =>
    rw [exec_pcLoad]
    exact evalCommitWord_completes (pcRef i) x s
  case inc =>
    obtain ⟨t, hexec, hcount, hout, hframe⟩ := evalCommitWord_completes (pcRef i) (incWord (s.readWord (pcRef i))) s
    exact ⟨t, _, (exec_pcInc i x s).trans hexec, uval_incWord _, hcount, hout, hframe⟩
  case hold => exact exec_pcHold i x reset load inc clock s

end Sys2Proof.Machine
end

section
/-! PROOFS. The reads of the memory hierarchy and both accesses of a main memory, one equation each; which word of its
part a main-memory address names; and from them the statements about these operations (43_memory_hierarchy.md R202 to
R213, R215 to R220). -/

namespace Sys2Proof.Machine

/-! ### What each operation does -/

@[simp] theorem exec_ram8Read (i : Inst) (x : Word) (a : BitVec 3) (load clock : Sig) (s : State) :
    exec (.ram8Read i x a load clock) s = evalReadWord (ram8Ref i a) s := rfl
@[simp] theorem exec_ram64Read (i : Inst) (x : Word) (a : BitVec 6) (load clock : Sig) (s : State) :
    exec (.ram64Read i x a load clock) s = evalReadWord (ram64Ref i a) s := rfl
@[simp] theorem exec_ram512Read (i : Inst) (x : Word) (a : BitVec 9) (load clock : Sig) (s : State) :
    exec (.ram512Read i x a load clock) s = evalReadWord (ram512Ref i a) s := rfl
@[simp] theorem exec_ram4kRead (i : Inst) (x : Word) (a : BitVec 12) (load clock : Sig) (s : State) :
    exec (.ram4kRead i x a load clock) s = evalReadWord (ram4kRef i a) s := rfl
@[simp] theorem exec_ram16kRead (i : Inst) (x : Word) (a : BitVec 14) (load clock : Sig) (s : State) :
    exec (.ram16kRead i x a load clock) s = evalReadWord (ram16kRef i a) s := rfl
@[simp] theorem exec_screenRead (i : Inst) (x : Word) (a : BitVec 14) (load clock : Sig) (s : State) :
    exec (.screenRead i x a load clock) s = evalReadWord (screenRef i a) s := rfl
@[simp] theorem exec_keyboardRead (i : Inst) (s : State) : exec (.keyboardRead i) s = evalReadWord (kbdRef i) s := rfl
@[simp] theorem exec_memRamWrite (i : Inst) (x : Word) (a : BitVec 15) (s : State) :
    exec (.memRamWrite i x a) s = evalCommitWord (memRamRef i a) x s := rfl
@[simp] theorem exec_memRamRead (i : Inst) (x : Word) (a : BitVec 15) (load clock : Sig) (s : State) :
    exec (.memRamRead i x a load clock) s = evalReadWord (memRamRef i a) s := rfl
@[simp] theorem exec_memScreenWrite (i : Inst) (x : Word) (a : BitVec 15) (s : State) :
    exec (.memScreenWrite i x a) s = evalCommitWord (memScreenRef s.config i a) x s := rfl
@[simp] theorem exec_memScreenRead (i : Inst) (x : Word) (a : BitVec 15) (load clock : Sig) (s : State) :
    exec (.memScreenRead i x a load clock) s = evalReadWord (memScreenRef s.config i a) s := rfl

/-- R219: a write at the keyboard's address is a read of the keyboard value. -/
@[simp] theorem exec_memKbdWrite (i : Inst) (x : Word) (a : BitVec 15) (s : State) :
    exec (.memKbdWrite i x a) s = evalReadWord (memKbdRef i) s := rfl
@[simp] theorem exec_memKbdRead (i : Inst) (x : Word) (a : BitVec 15) (load clock : Sig) (s : State) :
    exec (.memKbdRead i x a load clock) s = evalReadWord (memKbdRef i) s := rfl

/-- R160: what a reading evaluation answers, field by field. -/
theorem evalReadWord_eq (e : WordRef) (s : State) :
    evalReadWord e s = .next { s with outputs := [(.out, .word (s.readWord e))] } := rfl

/-! ### The word that a main-memory address names -/

/-- R55: the RAM region is the addresses below `RAM_WORDS`. -/
theorem Config.lt_ramWords_of_region {cfg : Config} {a : BitVec 15} (h : cfg.region a = .ram) : uval a < ramWords := by
  by_contra hge
  rw [Config.region, if_neg hge] at h
  split_ifs at h

/-- R215: keeping the 14-bit offset at 15 bits loses nothing. -/
theorem uval_ramOffset (a : BitVec 15) : uval (ramOffset a) = uval (a.extractLsb' 0 14) :=
  BitVec.toNat_setWidth_of_le (by decide)

/-- R215: in the RAM region bit 14 of the address is 0, so its low 14 bits are the whole address. -/
theorem uval_low14_of_ram {cfg : Config} {a : BitVec 15} (h : cfg.region a = .ram) :
    uval (a.extractLsb' 0 14) = uval a := by
  rw [uval, BitVec.extractLsb'_toNat, Nat.shiftRight_zero]
  exact Nat.mod_eq_of_lt (Config.lt_ramWords_of_region h)

/-- R217: in the screen region the subtraction does not go below 0, so the base added again gives the address. -/
theorem Config.uval_screenOffset_add_screenBase {cfg : Config} {a : BitVec 15} (h : cfg.region a = .screen) :
    uval (cfg.screenOffset a) + cfg.screenBase = uval a := by
  obtain ⟨hbase, -⟩ := Config.screen_bounds h
  have hfits : uval a - cfg.screenBase < 2 ^ 15 := lt_of_le_of_lt (Nat.sub_le _ _) a.isLt
  calc uval (cfg.screenOffset a) + cfg.screenBase
    _ = uval a - cfg.screenBase + cfg.screenBase := by
      rw [uval, Config.screenOffset, BitVec.toNat_ofNat, Nat.mod_eq_of_lt hfits]
    _ = uval a := Nat.sub_add_cancel hbase

/-! ### The statements -/

/-- Settles O33: both operations act on the word at the offset, which is the low 14 bits and, in the RAM region, the
address. -/
theorem mainMemoryRamAccess : Obligations.MainMemoryRamAccess := by
  intro i x a load clock s hregion
  refine ⟨memRamRef i a, rfl, rfl, ?address, uval_ramOffset a, ?write, ?read⟩
  case address => exact (uval_ramOffset a).trans (uval_low14_of_ram hregion)
  case write =>
    rw [exec_memRamWrite]
    exact evalCommitWord_completes (memRamRef i a) x s
  case read => rw [exec_memRamRead, evalReadWord_eq]

/-- Settles O34: both operations act on the word at the offset, which in the screen region is the address less the base
and so below the screen's size. -/
theorem mainMemoryScreenAccess : Obligations.MainMemoryScreenAccess := by
  intro i x a load clock s hregion
  refine ⟨memScreenRef s.config i a, rfl, rfl, Config.uval_screenOffset_add_screenBase hregion,
    Config.screenOffset_lt hregion, ?write, ?read⟩
  case write =>
    rw [exec_memScreenWrite]
    exact evalCommitWord_completes (memScreenRef s.config i a) x s
  case read => rw [exec_memScreenRead, evalReadWord_eq]

/-- Settles O31: every one of these operations is a reading evaluation of the word at the widened address. -/
theorem memoryReadsDriveTheStoredWord : Obligations.MemoryReadsDriveTheStoredWord := by
  intro i x a3 a6 a9 a12 a14 load clock s
  refine ⟨?ram8, ?ram64, ?ram512, ?ram4k, ?ram16k, ?screen⟩
  case ram8 => exact (exec_ram8Read i x a3 load clock s).trans (evalReadWord_eq _ s)
  case ram64 => exact (exec_ram64Read i x a6 load clock s).trans (evalReadWord_eq _ s)
  case ram512 => exact (exec_ram512Read i x a9 load clock s).trans (evalReadWord_eq _ s)
  case ram4k => exact (exec_ram4kRead i x a12 load clock s).trans (evalReadWord_eq _ s)
  case ram16k => exact (exec_ram16kRead i x a14 load clock s).trans (evalReadWord_eq _ s)
  case screen => exact (exec_screenRead i x a14 load clock s).trans (evalReadWord_eq _ s)

/-- Settles O35: all three operations, the write included, are reading evaluations of the instance's keyboard value. -/
theorem keyboardAccessNeverCommits : Obligations.KeyboardAccessNeverCommits := by
  intro i x a load clock s
  refine ⟨?keyboard, ?memWrite, ?memRead⟩
  case keyboard => rw [exec_keyboardRead, evalReadWord_eq]
  case memWrite => rw [exec_memKbdWrite, evalReadWord_eq]
  case memRead => rw [exec_memKbdRead, evalReadWord_eq]

end Sys2Proof.Machine
end

section
/-! PROOFS. The frame, both ways (30_encoding.md R80, R91): every operation's operands are read back from its frame, and
the operands read from a frame are those of the operation it decodes to. -/

namespace Sys2Proof

/-! ### From an operation to its frame and back -/

/-- Every operation's fields fit the frame, and under parameters in which it is well formed its port values select it. -/
theorem Instr.fields_and_selects : ∀ i : Instr, Laws.Fields.Statement i ∧ Laws.Selects.Statement i
  | .nand .. => ⟨Laws.Fields.nand .., Laws.Selects.nand _ _⟩
  | .not .. => ⟨Laws.Fields.not .., Laws.Selects.not _⟩
  | .and .. => ⟨Laws.Fields.and .., Laws.Selects.and _ _⟩
  | .or .. => ⟨Laws.Fields.or .., Laws.Selects.or _ _⟩
  | .xor .. => ⟨Laws.Fields.xor .., Laws.Selects.xor _ _⟩
  | .mux .. => ⟨Laws.Fields.mux .., Laws.Selects.mux _ _ _⟩
  | .dmux .. => ⟨Laws.Fields.dmux .., Laws.Selects.dmux _ _⟩
  | .not16 .. => ⟨Laws.Fields.not16 .., Laws.Selects.not16 _⟩
  | .and16 .. => ⟨Laws.Fields.and16 .., Laws.Selects.and16 _ _⟩
  | .or16 .. => ⟨Laws.Fields.or16 .., Laws.Selects.or16 _ _⟩
  | .xor16 .. => ⟨Laws.Fields.xor16 .., Laws.Selects.xor16 _ _⟩
  | .mux16 .. => ⟨Laws.Fields.mux16 .., Laws.Selects.mux16 _ _ _⟩
  | .dmux16 .. => ⟨Laws.Fields.dmux16 .., Laws.Selects.dmux16 _ _⟩
  | .or8way .. => ⟨Laws.Fields.or8way .., Laws.Selects.or8way _⟩
  | .mux4way .. => ⟨Laws.Fields.mux4way .., Laws.Selects.mux4way _ _ _ _ _⟩
  | .mux4way16 .. => ⟨Laws.Fields.mux4way16 .., Laws.Selects.mux4way16 _ _ _ _ _⟩
  | .mux8way .. => ⟨Laws.Fields.mux8way .., Laws.Selects.mux8way _ _ _ _ _ _ _ _ _⟩
  | .mux8way16 .. => ⟨Laws.Fields.mux8way16 .., Laws.Selects.mux8way16 _ _ _ _ _ _ _ _ _⟩
  | .dmux4way .. => ⟨Laws.Fields.dmux4way .., Laws.Selects.dmux4way _ _⟩
  | .dmux4way16 .. => ⟨Laws.Fields.dmux4way16 .., Laws.Selects.dmux4way16 _ _⟩
  | .dmux8way .. => ⟨Laws.Fields.dmux8way .., Laws.Selects.dmux8way _ _⟩
  | .dmux8way16 .. => ⟨Laws.Fields.dmux8way16 .., Laws.Selects.dmux8way16 _ _⟩
  | .halfadder .. => ⟨Laws.Fields.halfadder .., Laws.Selects.halfadder _ _⟩
  | .fulladder .. => ⟨Laws.Fields.fulladder .., Laws.Selects.fulladder _ _ _⟩
  | .add16 .. => ⟨Laws.Fields.add16 .., Laws.Selects.add16 _ _⟩
  | .inc16 .. => ⟨Laws.Fields.inc16 .., Laws.Selects.inc16 _⟩
  | .dffLatch .. => ⟨Laws.Fields.dffLatch .., Laws.Selects.dffLatch _ _⟩
  | .dffHold .. => ⟨Laws.Fields.dffHold .., Laws.Selects.dffHold _ _⟩
  | .bitLoad .. => ⟨Laws.Fields.bitLoad .., Laws.Selects.bitLoad _ _⟩
  | .bitHold .. => ⟨Laws.Fields.bitHold .., Laws.Selects.bitHold _ _ _ _⟩
  | .registerLoad .. => ⟨Laws.Fields.registerLoad .., Laws.Selects.registerLoad _ _⟩
  | .registerHold .. => ⟨Laws.Fields.registerHold .., Laws.Selects.registerHold _ _ _ _⟩
  | .pcReset .. => ⟨Laws.Fields.pcReset .., Laws.Selects.pcReset _ _ _ _⟩
  | .pcLoad .. => ⟨Laws.Fields.pcLoad .., Laws.Selects.pcLoad _ _ _⟩
  | .pcInc .. => ⟨Laws.Fields.pcInc .., Laws.Selects.pcInc _ _⟩
  | .pcHold .. => ⟨Laws.Fields.pcHold .., Laws.Selects.pcHold _ _ _ _ _ _⟩
  | .ram8Write .. => ⟨Laws.Fields.ram8Write .., Laws.Selects.ram8Write _ _ _⟩
  | .ram8Read .. => ⟨Laws.Fields.ram8Read .., Laws.Selects.ram8Read _ _ _ _ _⟩
  | .ram64Write .. => ⟨Laws.Fields.ram64Write .., Laws.Selects.ram64Write _ _ _⟩
  | .ram64Read .. => ⟨Laws.Fields.ram64Read .., Laws.Selects.ram64Read _ _ _ _ _⟩
  | .ram512Write .. => ⟨Laws.Fields.ram512Write .., Laws.Selects.ram512Write _ _ _⟩
  | .ram512Read .. => ⟨Laws.Fields.ram512Read .., Laws.Selects.ram512Read _ _ _ _ _⟩
  | .ram4kWrite .. => ⟨Laws.Fields.ram4kWrite .., Laws.Selects.ram4kWrite _ _ _⟩
  | .ram4kRead .. => ⟨Laws.Fields.ram4kRead .., Laws.Selects.ram4kRead _ _ _ _ _⟩
  | .ram16kWrite .. => ⟨Laws.Fields.ram16kWrite .., Laws.Selects.ram16kWrite _ _ _⟩
  | .ram16kRead .. => ⟨Laws.Fields.ram16kRead .., Laws.Selects.ram16kRead _ _ _ _ _⟩
  | .screenWrite .. => ⟨Laws.Fields.screenWrite .., Laws.Selects.screenWrite _ _ _⟩
  | .screenRead .. => ⟨Laws.Fields.screenRead .., Laws.Selects.screenRead _ _ _ _ _⟩
  | .keyboardRead .. => ⟨Laws.Fields.keyboardRead .., Laws.Selects.keyboardRead _⟩
  | .memRamWrite .. => ⟨Laws.Fields.memRamWrite .., Laws.Selects.memRamWrite _ _ _⟩
  | .memRamRead .. => ⟨Laws.Fields.memRamRead .., Laws.Selects.memRamRead _ _ _ _ _⟩
  | .memScreenWrite .. => ⟨Laws.Fields.memScreenWrite .., Laws.Selects.memScreenWrite _ _ _⟩
  | .memScreenRead .. => ⟨Laws.Fields.memScreenRead .., Laws.Selects.memScreenRead _ _ _ _ _⟩
  | .memKbdWrite .. => ⟨Laws.Fields.memKbdWrite .., Laws.Selects.memKbdWrite _ _ _⟩
  | .memKbdRead .. => ⟨Laws.Fields.memKbdRead .., Laws.Selects.memKbdRead _ _ _ _ _⟩
  | .memUnmappedWrite .. => ⟨Laws.Fields.memUnmappedWrite .., Laws.Selects.memUnmappedWrite _ _ _⟩
  | .memUnmappedRead .. => ⟨Laws.Fields.memUnmappedRead .., Laws.Selects.memUnmappedRead _ _ _ _ _⟩

/-- A gate has no instances: its frame holds 0 there. -/
theorem Instr.inst_of_gate {i : Instr} (h : i.component.sequential = false) (hk : i.component ≠ .keyboard) :
    i.inst = 0 := by
  cases i
  case keyboardRead => exact absurd rfl hk
  all_goals first | rfl | cases h

/-- When a frame decodes, part by part (log 1): its component exists, no bit outside the fields is set, and its port
values select the operation, which is well formed. -/
theorem decode_eq_ok_iff {cfg : Config} {f : Frame} {i : Instr} :
    decode cfg f = .ok i ↔ ∃ c, Component.ofCode (f.toNat / 2 ^ 24 % 2 ^ 8) = some c
      ∧ (unpackFields c.controlWidths (f.toNat % 2 ^ 24)).2 = 0 ∧ (unpackFields c.dataWidths (f.toNat / 2 ^ 40)).2 = 0
      ∧ (c.sequential = false → c ≠ .keyboard → f.toNat / 2 ^ 32 % 2 ^ 8 = 0)
      ∧ select cfg (BitVec.ofNat 8 (f.toNat / 2 ^ 32 % 2 ^ 8)) c (portOrder c
          (unpackFields c.controlWidths (f.toNat % 2 ^ 24)).1 (unpackFields c.dataWidths (f.toNat / 2 ^ 40)).1) = some i
      ∧ i.wellFormed cfg = true := by
  have hgate : ∀ (c : Component) (n : Nat), (!c.sequential && decide (c ≠ .keyboard) && decide (n ≠ 0)) = false
      ↔ (c.sequential = false → c ≠ .keyboard → n = 0) := by
    intro c n
    cases c.sequential <;> by_cases hk : c = .keyboard <;> simp [hk]
  simp only [decode]
  cases Component.ofCode (f.toNat / 2 ^ 24 % 2 ^ 8) with
  | none => simp
  | some c =>
    simp only [Option.some.injEq, exists_eq_left', ← hgate]
    split
    case isTrue hbits => constructor <;> grind
    case isFalse hbits => constructor <;> grind

/-- Settles O1: the four parts of the frame's number are those the encoder put there, the fields are unpacked as they
were packed, and the port values select the operation. -/
theorem encodeThenDecode : Obligations.EncodeThenDecode := by
  intro cfg i hwf
  obtain ⟨⟨hcontrol, hdata⟩, hselects⟩ := i.fields_and_selects
  have hword : i.controlWord < 2 ^ 24 := lt_of_lt_of_le (packFields_lt _ _)
    (Nat.pow_le_pow_right (by omega) i.component.control_sum_le)
  have hcode := i.component.code_lt
  have hinst := i.inst.isLt
  refine decode_eq_ok_iff.mpr ⟨i.component, ?_⟩
  rw [toNat_encode, frameNumber_code hword hcode, frameNumber_inst hword hcode hinst, frameNumber_control hword,
    frameNumber_data hword hcode hinst, Instr.controlWord, unpackFields_packFields hcontrol,
    unpackFields_packFields hdata]
  refine ⟨Component.ofCode_code _, rfl, rfl, fun h hk => ?gate, ?selects, hwf⟩
  case gate => rw [Instr.inst_of_gate h hk]; rfl
  case selects =>
    rw [BitVec.ofNat_toNat, BitVec.setWidth_eq]
    exact hselects cfg hwf

/-! ### From a frame to its operation and back -/

theorem toNat_sigOf {n : Nat} (h : n < 2 ^ 1) : (sigOf n).toNat = n := by
  interval_cases n <;> rfl

theorem toNat_bitVecOfNat {w n : Nat} (h : n < 2 ^ w) : (BitVec.ofNat w n).toNat = n :=
  BitVec.toNat_ofNat n w ▸ Nat.mod_eq_of_lt h

theorem toNat_wordOf {n : Nat} (h : n < 2 ^ 16) : (wordOf n).toNat = n := toNat_bitVecOfNat h

theorem eq_zero_or_one {n : Nat} (h : n < 2 ^ 1) : n = 0 ∨ n = 1 := by omega

/-- R82: whichever PC row is selected, its fields are the port values. -/
theorem selectPc_fields (i : Inst) (x : Word) (reset load inc clock : Sig) :
    (selectPc i x reset load inc clock).component = .pc
      ∧ (selectPc i x reset load inc clock).control = [inc.toNat, load.toNat, reset.toNat, clock.toNat]
      ∧ (selectPc i x reset load inc clock).data = [x.toNat] ∧ (selectPc i x reset load inc clock).inst = i := by
  cases reset <;> cases load <;> cases inc <;> cases clock <;> exact ⟨rfl, rfl, rfl, rfl⟩

/-- R82: whichever MEMORY row is selected, its fields are the port values. -/
theorem selectMemory_fields (cfg : Config) (i : Inst) (x : Word) (a : BitVec 15) (load clock : Sig) :
    (selectMemory cfg i x a load clock).component = .memory
      ∧ (selectMemory cfg i x a load clock).control = [a.toNat, load.toNat, clock.toNat]
      ∧ (selectMemory cfg i x a load clock).data = [x.toNat] ∧ (selectMemory cfg i x a load clock).inst = i := by
  unfold selectMemory
  cases cfg.region a <;> cases load <;> cases clock <;> exact ⟨rfl, rfl, rfl, rfl⟩

/-- The operation that fields of the right widths select has these fields, and the number given if its component has
numbers. In each case the fields are listed, as many as the component has, and `select` gives the row: the only one, the
one that `load` and `clock` choose, or PC's or MEMORY's. -/
theorem select_fields {cfg : Config} {inst : Inst} {c : Component} {control data : List Nat} {i : Instr}
    (hc : Fits c.controlWidths control) (hd : Fits c.dataWidths data)
    (h : select cfg inst c (portOrder c control data) = some i) :
    i.component = c ∧ i.control = control ∧ i.data = data
      ∧ ((c.sequential = true ∨ c = .keyboard) → i.inst = inst) := by
  cases c <;>
    rcases hd with _ | ⟨d1, _ | ⟨d2, _ | ⟨d3, _ | ⟨d4, _ | ⟨d5, _ | ⟨d6, _ | ⟨d7, _ | ⟨d8, _ | ⟨d9, _ | _⟩⟩⟩⟩⟩⟩⟩⟩⟩ <;>
    rcases hc with _ | ⟨c1, _ | ⟨c2, _ | ⟨c3, _ | ⟨c4, _ | _⟩⟩⟩⟩
  case pc =>
    cases h
    obtain ⟨hcomponent, hcontrol, hdata, hinst⟩ :=
      selectPc_fields inst (wordOf _) (sigOf _) (sigOf _) (sigOf _) (sigOf _)
    refine ⟨hcomponent, hcontrol.trans ?_, hdata.trans ?_, fun _ => hinst⟩
    · rw [toNat_sigOf c1, toNat_sigOf c2, toNat_sigOf c3, toNat_sigOf c4]
    · rw [toNat_wordOf d1]
  case memory =>
    cases h
    obtain ⟨hcomponent, hcontrol, hdata, hinst⟩ :=
      selectMemory_fields cfg inst (wordOf _) (.ofNat 15 _) (sigOf _) (sigOf _)
    refine ⟨hcomponent, hcontrol.trans ?_, hdata.trans ?_, fun _ => hinst⟩
    · rw [toNat_bitVecOfNat c1, toNat_sigOf c2, toNat_sigOf c3]
    · rw [toNat_wordOf d1]
  case dff =>
    rcases eq_zero_or_one c1 with rfl | rfl <;> cases h <;>
      exact ⟨rfl, rfl, congrArg (fun x => [x]) (toNat_sigOf d1), fun _ => rfl⟩
  case bit =>
    rcases eq_zero_or_one c1 with rfl | rfl <;> rcases eq_zero_or_one c2 with rfl | rfl <;> cases h <;>
      exact ⟨rfl, rfl, congrArg (fun x => [x]) (toNat_sigOf d1), fun _ => rfl⟩
  case register =>
    rcases eq_zero_or_one c1 with rfl | rfl <;> rcases eq_zero_or_one c2 with rfl | rfl <;> cases h <;>
      exact ⟨rfl, rfl, congrArg (fun x => [x]) (toNat_wordOf d1), fun _ => rfl⟩
  case ram8 | ram64 | ram512 | ram4k | ram16k | screen =>
    rcases eq_zero_or_one c1 with rfl | rfl <;> rcases eq_zero_or_one c2 with rfl | rfl <;> cases h <;>
      exact ⟨rfl, rfl, congrArg₂ (fun x a => [x, a]) (toNat_wordOf d1) (toNat_bitVecOfNat d2), fun _ => rfl⟩
  case keyboard => cases h; exact ⟨rfl, rfl, rfl, fun _ => rfl⟩
  all_goals
    cases h
    exact ⟨rfl, rfl, by simp only [Instr.data, toNat_sigOf, toNat_wordOf, toNat_bitVecOfNat, *, -Nat.reducePow],
      by simp [Component.sequential]⟩

/-- Settles O2: the number of the frame is the frame of its own parts; its component has the number read, and the
fields unpacked from its control word and data are those of the operation they select. -/
theorem decodeThenEncode : Obligations.DecodeThenEncode := by
  intro cfg f i h
  obtain ⟨c, hcode, hcontrolRest, hdataRest, hgate, hselect, hwf⟩ := decode_eq_ok_iff.mp h
  obtain ⟨hcomponent, hcontrol, hdata, hinst⟩ := select_fields (unpackFields_fits _ _) (unpackFields_fits _ _) hselect
  refine ⟨BitVec.eq_of_toNat_eq ?_, hwf⟩
  have hword : i.controlWord = f.toNat % 2 ^ 24 := by
    rw [Instr.controlWord, hcomponent, hcontrol, packFields_unpackFields hcontrolRest]
  have hnumber : i.inst.toNat = f.toNat / 2 ^ 32 % 2 ^ 8 := by
    by_cases hstored : c.sequential = true ∨ c = .keyboard
    · rw [hinst hstored, toNat_bitVecOfNat (Nat.mod_lt _ (by decide))]
    · obtain ⟨hseq, hkeyboard⟩ := not_or.mp hstored
      rw [Bool.not_eq_true] at hseq
      rw [hgate hseq hkeyboard, Instr.inst_of_gate (hcomponent ▸ hseq) (hcomponent ▸ hkeyboard)]
      rfl
  calc (encode i).toNat
    _ = frameNumber i.controlWord i.component.code i.inst.toNat (packFields i.component.dataWidths i.data) :=
      toNat_encode i
    _ = frameNumber (f.toNat % 2 ^ 24) (f.toNat / 2 ^ 24 % 2 ^ 8) (f.toNat / 2 ^ 32 % 2 ^ 8) (f.toNat / 2 ^ 40) := by
      rw [hword, hnumber, hcomponent, Component.code_of_ofCode hcode, hdata, packFields_unpackFields hdataRest]
    _ = f.toNat := frameNumber_parts _

end Sys2Proof
end

section
/-! PROOFS. The boundary of untyped port values (30_encoding.md R87, 60_exceptions.md R303): the digits of a port value,
the two checks, what the boundary answers, and the operations that the port values select are well formed. -/

namespace Sys2Proof

/-! ### The operation selected is well formed -/

/-- A row that `clock load` = 11 selects, and the row after it, which needs that they are not both 1. -/
theorem of_idle_ite {α : Type} {P : α → Prop} {load clock : Sig} {x y : α} (hx : P x)
    (hy : idleControl load clock = true → P y) : P (if clock && load then x else y) := by
  cases load <;> cases clock
  case true.true => exact hx
  all_goals exact hy rfl

theorem selectPc_wellFormed (cfg : Config) (i : Inst) (x : Word) (reset load inc clock : Sig) :
    (selectPc i x reset load inc clock).wellFormed cfg = true := by
  cases reset <;> cases load <;> cases inc <;> cases clock <;> rfl

theorem selectMemory_wellFormed (cfg : Config) (i : Inst) (x : Word) (a : BitVec 15) (load clock : Sig) :
    (selectMemory cfg i x a load clock).wellFormed cfg = true := by
  unfold selectMemory
  cases hregion : cfg.region a <;> cases load <;> cases clock <;>
    simp [Instr.wellFormed, hregion, idleControl]

/-- R82: the port values select a well-formed operation, if those of a SCREEN hold an address that its port can
carry. -/
theorem select_wellFormed {cfg : Config} {inst : Inst} {c : Component} {values : List Nat} {i : Instr}
    (h : select cfg inst c values = some i)
    (hscreen : c = .screen → ∀ a, values[1]? = some a → a < cfg.screenWords) : i.wellFormed cfg = true := by
  cases c <;> simp only [select] at h
  case pc =>
    split at h <;> cases h
    exact selectPc_wellFormed ..
  case memory =>
    split at h <;> cases h
    exact selectMemory_wellFormed ..
  case dff =>
    split at h <;> cases h
    next c => cases sigOf c <;> rfl
  case screen =>
    split at h <;> cases h
    next x a load clock =>
      have ha : uval (BitVec.ofNat 14 a) < cfg.screenWords := by
        rw [uval, BitVec.toNat_ofNat]
        exact lt_of_le_of_lt (Nat.mod_le _ _) (hscreen rfl a rfl)
      exact of_idle_ite (P := fun i : Instr => i.wellFormed cfg = true) (decide_eq_true ha)
        fun hidle => Bool.and_eq_true_iff.mpr ⟨decide_eq_true ha, hidle⟩
  case bit | register | ram8 | ram64 | ram512 | ram4k | ram16k =>
    split at h <;> cases h
    exact of_idle_ite (P := fun i : Instr => i.wellFormed cfg = true) rfl id
  all_goals
    split at h <;> cases h
    rfl

/-! ### The operands of an operation fit its ports -/

/-- R81: the values at an operation's input ports have the widths of the ports. A PC's control word lists the ports in
another order, and a SCREEN's port is narrower than its field in a frame. -/
theorem Instr.values_fit {cfg : Config} {i : Instr} (h : i.wellFormed cfg = true) :
    Fits ((i.component.inputs cfg).map Prod.snd) i.values := by
  obtain ⟨hcontrol, hdata⟩ := i.fields_and_selects.1
  have hfields : Fits (i.component.dataWidths ++ i.component.controlWidths) (i.data ++ i.control) :=
    List.rel_append hdata hcontrol
  cases i
  case pcReset i x load inc =>
    exact .cons x.isLt <| .cons one_fits <| .cons (sig_fits load) <| .cons (sig_fits inc) <| .cons one_fits .nil
  case pcLoad i x inc =>
    exact .cons x.isLt <| .cons zero_fits <| .cons one_fits <| .cons (sig_fits inc) <| .cons one_fits .nil
  case pcInc i x =>
    exact .cons x.isLt <| .cons zero_fits <| .cons zero_fits <| .cons one_fits <| .cons one_fits .nil
  case pcHold i x reset load inc clock =>
    exact .cons x.isLt <| .cons (sig_fits reset) <| .cons (sig_fits load) <| .cons (sig_fits inc) <|
      .cons (sig_fits clock) .nil
  case screenWrite i x a =>
    exact .cons x.isLt <| .cons (of_decide_eq_true h) <| .cons one_fits <| .cons one_fits .nil
  case screenRead i x a load clock =>
    exact .cons x.isLt <| .cons (of_decide_eq_true (Bool.and_eq_true_iff.mp h).1) <| .cons (sig_fits load) <|
      .cons (sig_fits clock) .nil
  all_goals exact hfields

end Sys2Proof

namespace Sys2Proof.Machine

/-! ### Digits (R8) -/

@[simp] theorem length_digitsOf (w n : Nat) : (digitsOf w n).length = w := by
  induction w generalizing n with
  | zero => rfl
  | succ w ih => simp [digitsOf, ih]

theorem le_one_of_mem_digitsOf {w n d : Nat} (h : d ∈ digitsOf w n) : d ≤ 1 := by
  induction w generalizing n with
  | zero => cases h
  | succ w ih =>
    rcases List.mem_append.mp h with h | h
    · exact ih h
    · rw [List.mem_singleton.mp h]
      omega

theorem rawValue_append (digits : RawValue) (d : Nat) : rawValue (digits ++ [d]) = 2 * rawValue digits + d := by
  simp [rawValue]

/-- The digits of a number that fits their width spell it. -/
theorem rawValue_digitsOf {w n : Nat} (h : n < 2 ^ w) : rawValue (digitsOf w n) = n := by
  induction w generalizing n with
  | zero =>
    obtain rfl : n = 0 := by omega
    rfl
  | succ w ih =>
    rw [digitsOf, rawValue_append, ih (by rw [pow_succ] at h; omega)]
    omega

/-- R7: a word of n binary digits is below 2^n. -/
theorem rawValue_lt {digits : RawValue} (h : ∀ d ∈ digits, d ≤ 1) : rawValue digits < 2 ^ digits.length := by
  induction digits using List.reverseRecOn with
  | nil => decide
  | append_singleton digits d ih =>
    have hinit := ih fun d' hd' => h d' (List.mem_append_left _ hd')
    have hd : d ≤ 1 := h d (List.mem_append_right _ (List.mem_singleton_self d))
    rw [rawValue_append, List.length_append, List.length_singleton, pow_succ]
    omega

/-! ### The two checks (R6, R7) -/

theorem badSignal_eq_none_iff {values : List (PortName × RawValue)} :
    badSignal values = none ↔ ∀ v ∈ values, ∀ d ∈ v.2, d ≤ 1 := by
  simp [badSignal]

/-- The port that the first check names holds an illegal digit. -/
theorem badSignal_eq_some {values : List (PortName × RawValue)} {p : PortName} (h : badSignal values = some p) :
    ∃ v ∈ values, (∃ d ∈ v.2, 1 < d) ∧ v.1 = p := by
  obtain ⟨v, hfind, hname⟩ := Option.map_eq_some_iff.mp h
  have hbad := List.find?_some hfind
  rw [List.any_eq_true] at hbad
  obtain ⟨d, hd, hlarge⟩ := hbad
  exact ⟨v, List.mem_of_find?_eq_some hfind, ⟨d, hd, of_decide_eq_true hlarge⟩, hname⟩

/-- The second check passes when every value has its port's width. -/
theorem badWidth_eq_none_iff {ports : List (PortName × Nat)} {values : List (PortName × RawValue)}
    (hnames : values.map Prod.fst = ports.map Prod.fst) :
    badWidth ports values = none ↔ values.map (fun v => (v.1, v.2.length)) = ports := by
  induction ports generalizing values with
  | nil =>
    obtain rfl := List.map_eq_nil_iff.mp hnames
    exact iff_of_true rfl rfl
  | cons p ports ih =>
    cases values with
    | nil => cases hnames
    | cons v values =>
      obtain ⟨hname, hrest⟩ := List.cons.inj hnames
      rw [badWidth, List.map_cons, List.cons.injEq, Prod.ext_iff]
      split
      case isTrue hwidth => simp [ih hrest, hname, hwidth]
      case isFalse hwidth => simp [hwidth]

/-- The port that the second check names has another width than the value given. -/
theorem badWidth_eq_some {ports : List (PortName × Nat)} {values : List (PortName × RawValue)} {p : PortName}
    {given : Nat} (hnames : values.map Prod.fst = ports.map Prod.fst) (h : badWidth ports values = some (p, given)) :
    ∃ v ∈ values, ∃ w, (v.1, w) ∈ ports ∧ v.1 = p ∧ v.2.length = given ∧ given ≠ w := by
  induction ports generalizing values with
  | nil => cases h
  | cons q ports ih =>
    cases values with
    | nil => cases h
    | cons v values =>
      obtain ⟨hname, hrest⟩ := List.cons.inj hnames
      rw [badWidth] at h
      split at h
      case isTrue =>
        obtain ⟨v', hmem, w, hport, hv⟩ := ih hrest h
        exact ⟨v', List.mem_cons_of_mem v hmem, w, List.mem_cons_of_mem q hport, hv⟩
      case isFalse hwidth =>
        cases h
        exact ⟨v, List.mem_cons_self, q.2, by simp [hname], hname, rfl, hwidth⟩

/-- R81: the ports of a component have different names. -/
theorem nodup_inputs (cfg : Config) (c : Component) : ((c.inputs cfg).map Prod.fst).Nodup := by
  cases c <;> simp [Component.inputs]

/-- A port has one width. -/
theorem inputs_width_unique {cfg : Config} {c : Component} {p : PortName} {w w' : Nat} (h : (p, w) ∈ c.inputs cfg)
    (h' : (p, w') ∈ c.inputs cfg) : w = w' :=
  congrArg Prod.snd (List.inj_on_of_nodup_map (nodup_inputs cfg c) h h' rfl)

/-! ### What the boundary answers (R303) -/

section
variable {cfg : Config} {c : Component} {i : Inst} {values : List (PortName × RawValue)}

theorem boundary_of_badSignal {p : PortName} (hnames : values.map Prod.fst = (c.inputs cfg).map Prod.fst)
    (h : badSignal values = some p) : boundary cfg c i values = .faulted (.signal c p) := by
  simp only [boundary, hnames, h, ne_eq, not_true_eq_false, if_false]

theorem boundary_of_badWidth {p : PortName} {given : Nat}
    (hnames : values.map Prod.fst = (c.inputs cfg).map Prod.fst) (hsignal : badSignal values = none)
    (h : badWidth (c.inputs cfg) values = some (p, given)) :
    boundary cfg c i values = .faulted (.width c p given) := by
  simp only [boundary, hnames, hsignal, h, ne_eq, not_true_eq_false, if_false]

/-- An untyped evaluation is accepted when its ports are the component's, both checks pass, and the values spelled
select the operation. -/
theorem boundary_eq_accepted_iff {op : Instr} :
    boundary cfg c i values = .accepted op ↔ values.map Prod.fst = (c.inputs cfg).map Prod.fst
      ∧ badSignal values = none ∧ badWidth (c.inputs cfg) values = none
      ∧ select cfg i c (values.map fun v => rawValue v.2) = some op := by
  unfold boundary
  split
  case isTrue hnames => exact iff_of_false (by simp) fun h => hnames h.1
  case isFalse hnames =>
    rw [not_not] at hnames
    cases badSignal values with
    | some p => simp
    | none =>
      cases badWidth (c.inputs cfg) values with
      | some p => simp
      | none => cases select cfg i c (values.map fun v => rawValue v.2) <;> simp [hnames]

/-- R87: an accepted operation is well formed; a SCREEN's address is below its size because it has as many digits as the
port. -/
theorem boundary_accepted_wellFormed {op : Instr} (h : boundary cfg c i values = .accepted op) :
    op.wellFormed cfg = true := by
  obtain ⟨hnames, hsignal, hwidth, hselect⟩ := boundary_eq_accepted_iff.mp h
  refine select_wellFormed hselect fun hc a ha => ?_
  subst hc
  rw [List.getElem?_map, Option.map_eq_some_iff] at ha
  obtain ⟨v, hv, rfl⟩ := ha
  have hport : (v.1, v.2.length) = (.address, cfg.screenAw) := by
    have hports := congrArg (·[1]?) ((badWidth_eq_none_iff hnames).mp hwidth)
    rw [List.getElem?_map, hv] at hports
    exact Option.some.inj hports
  have hlength : v.2.length = cfg.screenAw := congrArg Prod.snd hport
  have hlt := rawValue_lt (badSignal_eq_none_iff.mp hsignal v (List.mem_of_getElem? hv))
  rwa [hlength] at hlt

end

/-- Settles O51: the check that finds something names a port that breaks it, and the boundary faults with that name
before any operation is selected; a width that a value has is not that of another port of the same name. -/
theorem illegalInputsFaultAtTheBoundary : Obligations.IllegalInputsFaultAtTheBoundary := by
  intro s c i values hnames
  refine ⟨fun hbad => ?signal, fun hlegal hwidths => ?width⟩
  case signal =>
    cases hcheck : badSignal values with
    | none =>
      obtain ⟨v, hv, d, hd, hlarge⟩ := hbad
      exact absurd hlarge (Nat.not_lt.mpr (badSignal_eq_none_iff.mp hcheck v hv d hd))
    | some p =>
      obtain ⟨v, hv, hdigit, rfl⟩ := badSignal_eq_some hcheck
      exact ⟨v, hv, hdigit, by rw [runInput, boundary_of_badSignal hnames hcheck]; rfl⟩
  case width =>
    have hsignal := badSignal_eq_none_iff.mpr hlegal
    cases hcheck : badWidth (c.inputs s.config) values with
    | none => exact absurd ((badWidth_eq_none_iff hnames).mp hcheck) hwidths
    | some found =>
      obtain ⟨p, given⟩ := found
      obtain ⟨v, hv, w, hport, rfl, hgiven, hne⟩ := badWidth_eq_some hnames hcheck
      refine ⟨v, hv, fun hmem => hne (hgiven ▸ inputs_width_unique hmem hport), ?_⟩
      rw [runInput, boundary_of_badWidth hnames hsignal hcheck, hgiven]
      rfl

/-! ### An operation's operands, spelled at its ports -/

/-- The port values that spell numbers of the ports' widths have the ports' names and widths, legal digits, and the
numbers as values. -/
theorem spelled_ports {ports : List (PortName × Nat)} {vs : List Nat} (h : Fits (ports.map Prod.snd) vs) :
    (List.zipWith (fun p v => (p.1, digitsOf p.2 v)) ports vs).map (fun v => (v.1, v.2.length)) = ports
      ∧ (List.zipWith (fun p v => (p.1, digitsOf p.2 v)) ports vs).map (fun v => rawValue v.2) = vs
      ∧ ∀ v ∈ List.zipWith (fun p v => (p.1, digitsOf p.2 v)) ports vs, ∀ d ∈ v.2, d ≤ 1 := by
  induction ports generalizing vs with
  | nil => cases h; simp
  | cons p ports ih =>
    cases h with
    | cons hv hvs =>
      obtain ⟨hports, hvalues, hdigits⟩ := ih hvs
      refine ⟨?_, ?_, fun v hmem => ?_⟩
      · simp [hports]
      · simp [hvalues, rawValue_digitsOf hv]
      · rcases List.mem_cons.mp hmem with rfl | hmem
        · exact fun d hd => le_one_of_mem_digitsOf hd
        · exact hdigits v hmem

/-- Settles O52: the operands fit the ports, so both checks pass, and the values spelled are the operands, which select
the operation. -/
theorem legalPortsRunTheOperation : Obligations.LegalPortsRunTheOperation := by
  intro s i hwf
  obtain ⟨hports, hvalues, hdigits⟩ := spelled_ports (Instr.values_fit hwf)
  have hnames : (rawPorts s.config i).map Prod.fst = (i.component.inputs s.config).map Prod.fst := by
    simpa [rawPorts, Function.comp_def] using congrArg (List.map Prod.fst) hports
  have haccepted : boundary s.config i.component i.inst (rawPorts s.config i) = .accepted i :=
    boundary_eq_accepted_iff.mpr ⟨hnames, badSignal_eq_none_iff.mpr hdigits, (badWidth_eq_none_iff hnames).mpr hports,
      hvalues.symm ▸ i.fields_and_selects.2 s.config hwf⟩
  rw [runInput, haccepted]

end Sys2Proof.Machine
end

section
/-! PROOFS. The opcode table (30_encoding.md R82): the rows of a MEMORY by the fields of its control word, the first row
that matches every operation's control word, and frames written out. -/

namespace Sys2Proof

/-! ### The default map -/

/-- R55 under the defaults of R5: the ends of the regions. -/
theorem region_standard (a : BitVec 15) :
    Config.standard.region a = if a.toNat < 0x4000 then .ram else if a.toNat < 0x6000 then .screen
      else if a.toNat = 0x6000 then .keyboard else .unmapped := by
  change (if a.toNat < 0x4000 then Region.ram else if 0x4000 ≤ a.toNat ∧ a.toNat < 0x6000 then Region.screen
    else if a.toNat = 0x6000 then Region.keyboard else Region.unmapped) = _
  split_ifs <;> first | rfl | omega

/-! ### The first row that matches -/

/-- A mask above position `k` reads the number above position `k` only. -/
theorem land_mul_two_pow_eq_iff (w m v k : Nat) : w &&& (m * 2 ^ k) = v * 2 ^ k ↔ w / 2 ^ k &&& m = v := by
  have hmask : w &&& (m * 2 ^ k) = (w / 2 ^ k &&& m) * 2 ^ k := by
    refine Nat.eq_of_testBit_eq fun j => ?_
    rw [Nat.testBit_and, Nat.testBit_mul_two_pow, Nat.testBit_mul_two_pow, Nat.testBit_and, Nat.testBit_div_two_pow]
    by_cases hj : k ≤ j <;> simp [hj]
  rw [hmask]
  exact Nat.mul_left_inj (Nat.two_pow_pos k).ne'

/-- R82: the first MEMORY row that matches a control word, by its top four bits (`clock load`, then the two of the
address that tell the regions apart) and, at the keyboard's address, by all the others. -/
theorem firstRow_memory (w : Nat) :
    (firstRow .memory w).map Row.mnemonic =
      if w / 2 ^ 13 &&& 0xe = 0xc then some "MEM.RAM.WRITE"
      else if w / 2 ^ 13 &&& 2 = 0 then some "MEM.RAM.READ"
      else if w / 2 ^ 13 &&& 0xf = 0xe then some "MEM.SCREEN.WRITE"
      else if w / 2 ^ 13 &&& 3 = 2 then some "MEM.SCREEN.READ"
      else if w % 2 ^ 17 = 0x1e000 then some "MEM.KBD.WRITE"
      else if w % 2 ^ 15 = 0x6000 then some "MEM.KBD.READ"
      else if w / 2 ^ 13 &&& 0xf = 0xf then some "MEM.UNMAPPED.WRITE"
      else if w / 2 ^ 13 &&& 3 = 3 then some "MEM.UNMAPPED.READ"
      else none := by
  have hrows : firstRow .memory w = (memoryRows.drop 13).find? fun r => w &&& r.mask == r.value := rfl
  rw [hrows, ← Nat.and_two_pow_sub_one_eq_mod w 17, ← Nat.and_two_pow_sub_one_eq_mod w 15]
  simp only [← land_mul_two_pow_eq_iff _ _ _ 13]
  simp only [Nat.reducePow, Nat.reduceMul, Nat.reduceSub, Nat.zero_mul]
  split_ifs <;> simp [memoryRows, *]

/-- R82: the first MEMORY row that matches is that of the operation selected, under the default map. -/
theorem firstRow_selectMemory (i : Inst) (x : Word) (a : BitVec 15) (load clock : Sig) :
    (firstRow .memory (a.toNat + 2 ^ 15 * (load.toNat + 2 * clock.toNat))).map Row.mnemonic
      = some (selectMemory Config.standard i x a load clock).mnemonic := by
  have ha := a.isLt
  have htop : (a.toNat + 2 ^ 15 * (load.toNat + 2 * clock.toNat)) / 2 ^ 13
      = a.toNat / 2 ^ 13 + 4 * (load.toNat + 2 * clock.toNat) := by omega
  rw [firstRow_memory, htop, selectMemory, region_standard]
  obtain h | h | h | h : a.toNat / 2 ^ 13 = 0 ∨ a.toNat / 2 ^ 13 = 1 ∨ a.toNat / 2 ^ 13 = 2 ∨ a.toNat / 2 ^ 13 = 3 := by
    omega
  case inl | inr.inl =>
    have hram : a.toNat < 0x4000 := by omega
    rw [h, if_pos hram]
    cases load <;> cases clock <;> rfl
  case inr.inr.inl =>
    have hram : ¬a.toNat < 0x4000 := by omega
    have hscreen : a.toNat < 0x6000 := by omega
    rw [h, if_neg hram, if_pos hscreen]
    cases load <;> cases clock <;> rfl
  case inr.inr.inr =>
    have hram : ¬a.toNat < 0x4000 := by omega
    have hscreen : ¬a.toNat < 0x6000 := by omega
    by_cases hkeyboard : a.toNat = 0x6000
    · rw [hkeyboard]
      cases load <;> cases clock <;> rfl
    · have hword : (a.toNat + 2 ^ 15 * (load.toNat + 2 * clock.toNat)) % 2 ^ 17 ≠ 0x1e000 := by omega
      have haddress : (a.toNat + 2 ^ 15 * (load.toNat + 2 * clock.toNat)) % 2 ^ 15 ≠ 0x6000 := by omega
      rw [h, if_neg hram, if_neg hscreen, if_neg hkeyboard, if_neg hword, if_neg haddress]
      cases load <;> cases clock <;> rfl

/-- The control word of a MEMORY's operation: the address, then `load`, then `clock`. -/
theorem packFields_memory (a : BitVec 15) (load clock : Sig) :
    packFields [15, 1, 1] [a.toNat, load.toNat, clock.toNat] = a.toNat + 2 ^ 15 * (load.toNat + 2 * clock.toNat) := by
  have ha : a.toNat % 2 ^ 15 = a.toNat := Nat.mod_eq_of_lt a.isLt
  simp only [packFields, ha]
  cases load <;> cases clock <;> rfl

/-- A MEMORY's operation that its port values select has the first matching row. -/
theorem firstRow_memory_operation {i : Instr} {inst : Inst} {x : Word} {a : BitVec 15} {load clock : Sig}
    (hc : i.component = .memory) (hcontrol : i.control = [a.toNat, load.toNat, clock.toNat])
    (hselect : selectMemory Config.standard inst x a load clock = i) :
    (firstRow i.component i.controlWord).map Row.mnemonic = some i.mnemonic := by
  rw [Instr.controlWord, hc, hcontrol]
  exact packFields_memory a load clock ▸ hselect ▸ firstRow_selectMemory inst x a load clock

/-- R82: the first PC row that matches is that of the operation selected. -/
theorem firstRow_selectPc (i : Inst) (x : Word) (reset load inc clock : Sig) :
    (firstRow .pc (packFields [1, 1, 1, 1] [inc.toNat, load.toNat, reset.toNat, clock.toNat])).map Row.mnemonic
      = some (selectPc i x reset load inc clock).mnemonic := by
  cases reset <;> cases load <;> cases inc <;> cases clock <;> rfl

/-- A row that follows `11` in the table matches every other value of its two control inputs. -/
theorem firstRow_idle {c : Component} {load clock : Sig} {m : String} (h : idleControl load clock = true)
    (h0 : (firstRow c 0).map Row.mnemonic = some m) (h1 : (firstRow c 1).map Row.mnemonic = some m)
    (h2 : (firstRow c 2).map Row.mnemonic = some m) :
    (firstRow c (packFields [1, 1] [load.toNat, clock.toNat])).map Row.mnemonic = some m := by
  cases load <;> cases clock
  case false.false => exact h0
  case true.false => exact h1
  case false.true => exact h2
  case true.true => cases h

/-- Settles O3: a gate has one row; the rows of `load` and `clock`, and of a PC, are few enough to go through; a
MEMORY's operation is the one its port values select. -/
theorem controlWordSelectsFirstMatchingRow : Obligations.ControlWordSelectsFirstMatchingRow := by
  intro i hwf
  cases i
  case bitHold | registerHold | ram8Read | ram64Read | ram512Read | ram4kRead | ram16kRead =>
    exact firstRow_idle hwf rfl rfl rfl
  case screenRead => exact firstRow_idle (Bool.and_eq_true_iff.mp hwf).2 rfl rfl rfl
  case pcReset i x load inc => exact firstRow_selectPc i x true load inc true
  case pcLoad i x inc => exact firstRow_selectPc i x false true inc true
  case pcInc i x => exact firstRow_selectPc i x false false true true
  case pcHold i x reset load inc clock =>
    have hfirst := firstRow_selectPc i x reset load inc clock
    rwa [selectPc_hold hwf] at hfirst
  case memRamWrite i x a | memScreenWrite i x a | memKbdWrite i x a | memUnmappedWrite i x a =>
    refine firstRow_memory_operation (inst := i) (x := x) (a := a) (load := true) (clock := true) rfl rfl ?_
    rw [selectMemory_write, of_decide_eq_true hwf]
  case memRamRead i x a load clock | memScreenRead i x a load clock | memKbdRead i x a load clock
      | memUnmappedRead i x a load clock =>
    obtain ⟨hregion, hidle⟩ := Bool.and_eq_true_iff.mp hwf
    refine firstRow_memory_operation (inst := i) (x := x) rfl rfl ?_
    rw [selectMemory_read hidle, of_decide_eq_true hregion]
  case dffLatch =>
    change (firstRow .dff 1).map Row.mnemonic = some "DFF.LATCH"
    rfl
  case bitLoad | registerLoad | ram8Write | ram64Write | ram512Write | ram4kWrite | ram16kWrite | screenWrite =>
    change (firstRow _ 3).map Row.mnemonic = _
    rfl
  all_goals
    change (firstRow _ 0).map Row.mnemonic = _
    rfl

/-- Settles O4: the decoder is evaluated on each frame. -/
theorem writtenOutFramesDecode : Obligations.WrittenOutFramesDecode := by
  refine ⟨?_, ?_, ?_, ?_, ?_, ?_, ?_, ?_, ?_, ?_, ?_⟩ <;> rfl

end Sys2Proof
end

section
/-! PROOFS. What the remaining gates drive, one equation each; the networks from NAND and the selector trees as functions
(40_gates.md R123, R83); and from them the statements about the gate library (R101 to R122). -/

namespace Sys2Proof.Machine

/-! ### What each gate drives -/

@[simp] theorem exec_nand (a b : Sig) (s : State) : exec (.nand a b) s = .next (s.drive (outSig (nandGate a b))) := rfl
@[simp] theorem exec_not (a : Sig) (s : State) : exec (.not a) s = .next (s.drive (outSig (!a))) := rfl
@[simp] theorem exec_mux (a b sel : Sig) (s : State) :
    exec (.mux a b sel) s = .next (s.drive (outSig (pick2 a b sel))) := rfl
@[simp] theorem exec_dmux (x sel : Sig) (s : State) :
    exec (.dmux x sel) s = .next (s.drive (sigPorts (route false x 2 sel.toNat))) := rfl
@[simp] theorem exec_xor16 (a b : Word) (s : State) : exec (.xor16 a b) s = .next (s.drive (outWord (a ^^^ b))) := rfl
@[simp] theorem exec_mux16 (a b : Word) (sel : Sig) (s : State) :
    exec (.mux16 a b sel) s = .next (s.drive (outWord (pick2 a b sel))) := rfl
@[simp] theorem exec_dmux16 (x : Word) (sel : Sig) (s : State) :
    exec (.dmux16 x sel) s = .next (s.drive (wordPorts (route 0x0000#16 x 2 sel.toNat))) := rfl
@[simp] theorem exec_or8way (w : BitVec 8) (s : State) : exec (.or8way w) s = .next (s.drive (outSig (or8 w))) := rfl
@[simp] theorem exec_mux4way (a b c d : Sig) (sel : BitVec 2) (s : State) :
    exec (.mux4way a b c d sel) s = .next (s.drive (outSig (pick4 a b c d sel))) := rfl
@[simp] theorem exec_mux4way16 (a b c d : Word) (sel : BitVec 2) (s : State) :
    exec (.mux4way16 a b c d sel) s = .next (s.drive (outWord (pick4 a b c d sel))) := rfl
@[simp] theorem exec_mux8way (a b c d e f g h : Sig) (sel : BitVec 3) (s : State) :
    exec (.mux8way a b c d e f g h sel) s = .next (s.drive (outSig (pick8 a b c d e f g h sel))) := rfl
@[simp] theorem exec_mux8way16 (a b c d e f g h : Word) (sel : BitVec 3) (s : State) :
    exec (.mux8way16 a b c d e f g h sel) s = .next (s.drive (outWord (pick8 a b c d e f g h sel))) := rfl
@[simp] theorem exec_dmux4way (x : Sig) (sel : BitVec 2) (s : State) :
    exec (.dmux4way x sel) s = .next (s.drive (sigPorts (route false x 4 (uval sel)))) := rfl
@[simp] theorem exec_dmux4way16 (x : Word) (sel : BitVec 2) (s : State) :
    exec (.dmux4way16 x sel) s = .next (s.drive (wordPorts (route 0x0000#16 x 4 (uval sel)))) := rfl
@[simp] theorem exec_dmux8way (x : Sig) (sel : BitVec 3) (s : State) :
    exec (.dmux8way x sel) s = .next (s.drive (sigPorts (route false x 8 (uval sel)))) := rfl
@[simp] theorem exec_dmux8way16 (x : Word) (sel : BitVec 3) (s : State) :
    exec (.dmux8way16 x sel) s = .next (s.drive (wordPorts (route 0x0000#16 x 8 (uval sel)))) := rfl

/-! ### The truth functions -/

theorem nandGate_eq_ite (a b : Sig) : nandGate a b = if a = true ∧ b = true then false else true := by
  cases a <;> cases b <;> rfl

theorem nandGate_self (a : Sig) : nandGate a a = !a := by cases a <;> rfl

theorem pick2_eq_ite {α : Type} (a b : α) (sel : Sig) : pick2 a b sel = if sel = false then a else b := by
  cases sel <;> rfl

theorem route_two {α : Type} (zero x : α) (sel : Sig) :
    route zero x 2 sel.toNat = [if sel = false then x else zero, if sel = true then x else zero] := by
  cases sel <;> rfl

/-- R114: the OR of eight bits is 1 when one of them is. -/
theorem or8_eq_true_iff (w : BitVec 8) : or8 w = true ↔ ∃ k < 8, w.getLsbD k = true := by
  simp [or8, List.any_eq_true]

theorem or8_eq_false_iff (w : BitVec 8) : or8 w = false ↔ w = 0#8 := by
  rw [← Bool.not_eq_true, or8_eq_true_iff]
  constructor
  case mp =>
    intro hnone
    refine BitVec.eq_of_getLsbD_eq fun k hk => ?_
    rw [BitVec.getLsbD_zero]
    exact Bool.eq_false_iff.mpr fun hbit => hnone ⟨k, hk, hbit⟩
  case mpr =>
    rintro rfl ⟨k, -, hbit⟩
    rw [BitVec.getLsbD_zero] at hbit
    cases hbit

/-- R83: a list of as many inputs as a selector has values holds one at each of them. -/
theorem getElem?_getD {α : Type} {l : List α} {n : Nat} (h : n < l.length) (d : α) : l[n]? = some (l.getD n d) := by
  rw [List.getD_eq_getElem _ _ h, List.getElem?_eq_getElem h]

/-- Settles O7: NAND and NOT by their tables, XOR16 at each position. -/
theorem nandNotXor16DriveTheirTruthFunctions : Obligations.NandNotXor16DriveTheirTruthFunctions := by
  intro a b v w s
  refine ⟨?nand, ?not, ?notIsNand, v ^^^ w, exec_xor16 v w s, fun k _ => BitVec.getLsbD_xor⟩
  case nand => rw [exec_nand, nandGate_eq_ite]; rfl
  case not => rw [exec_not]; cases a <;> rfl
  case notIsNand => rw [exec_not, exec_nand, nandGate_self]

/-- Settles O8: the selected input, and the routed input, at each of the two selector values. -/
theorem twoWaySelectorsPickByPolarity : Obligations.TwoWaySelectorsPickByPolarity := by
  intro a b x sel v w y s
  refine ⟨?mux, ?dmux, ?mux16, ?dmux16⟩
  case mux => rw [exec_mux, pick2_eq_ite]; rfl
  case dmux => rw [exec_dmux, route_two]; rfl
  case mux16 => rw [exec_mux16, pick2_eq_ite]; rfl
  case dmux16 => rw [exec_dmux16, route_two]; rfl

/-- Settles O10: the output is the OR of the bits, which is 0 for the zero word only. -/
theorem or8wayIsZeroOnlyForZero : Obligations.Or8wayIsZeroOnlyForZero := by
  intro w s
  exact ⟨or8 w, exec_or8way w s, or8_eq_true_iff w, or8_eq_false_iff w⟩

/-- Settles O11: the selector's value is below the number of inputs, so the list of inputs holds the one driven. -/
theorem multiplexersPickInputNumberSel : Obligations.MultiplexersPickInputNumberSel := by
  intro a b c d e f g h A B C D E F G H p q s
  exact ⟨⟨_, getElem?_getD p.isLt _, exec_mux4way a b c d p s⟩, ⟨_, getElem?_getD p.isLt _, exec_mux4way16 A B C D p s⟩,
    ⟨_, getElem?_getD q.isLt _, exec_mux8way a b c d e f g h q s⟩,
    ⟨_, getElem?_getD q.isLt _, exec_mux8way16 A B C D E F G H q s⟩⟩

/-- Settles O12: the routed list, output by output. -/
theorem demultiplexersRouteToOutputNumberSel : Obligations.DemultiplexersRouteToOutputNumberSel := by
  intro x w p q s
  exact ⟨exec_dmux4way x p s, exec_dmux4way16 w p s, exec_dmux8way x q s, exec_dmux8way16 w q s⟩

/-! ### The networks (R123) -/

@[simp] theorem netNot_eq (a : Sig) : netNot a = !a := nandGate_self a
@[simp] theorem netAnd_eq (a b : Sig) : netAnd a b = (a && b) := by cases a <;> cases b <;> rfl
@[simp] theorem netOr_eq (a b : Sig) : netOr a b = (a || b) := by cases a <;> cases b <;> rfl
@[simp] theorem netXor_eq (a b : Sig) : netXor a b = (a ^^ b) := by cases a <;> cases b <;> rfl
@[simp] theorem netMux_eq (a b sel : Sig) : netMux a b sel = pick2 a b sel := by cases a <;> cases b <;> cases sel <;> rfl
@[simp] theorem netDmux_eq (x sel : Sig) : netDmux x sel = (pick2 x false sel, pick2 false x sel) := by
  cases x <;> cases sel <;> rfl

@[simp] theorem getElem_each16 (g : Sig → Sig) (a : Word) {k : Nat} (hk : k < 16) : (each16 g a)[k] = g a[k] := by
  simp [each16]

@[simp] theorem getElem_pairs16 (g : Sig → Sig → Sig) (a b : Word) {k : Nat} (hk : k < 16) :
    (pairs16 g a b)[k] = g a[k] b[k] := by
  simp [pairs16]

@[simp] theorem each16_netNot (a : Word) : each16 netNot a = ~~~a := by ext k hk; simp
@[simp] theorem pairs16_netAnd (a b : Word) : pairs16 netAnd a b = a &&& b := by ext k hk; simp
@[simp] theorem pairs16_netOr (a b : Word) : pairs16 netOr a b = a ||| b := by ext k hk; simp
@[simp] theorem pairs16_netXor (a b : Word) : pairs16 netXor a b = a ^^^ b := by ext k hk; simp

@[simp] theorem netMux16_eq (a b : Word) (sel : Sig) : netMux16 a b sel = pick2 a b sel := by
  ext k hk
  cases sel <;> simp [netMux16, pick2]

@[simp] theorem netDmux16_eq (x : Word) (sel : Sig) :
    netDmux16 x sel = (pick2 x 0x0000#16 sel, pick2 0x0000#16 x sel) := by
  refine Prod.ext ?_ ?_ <;> ext k hk <;> cases sel <;> simp [netDmux16, pick2]

@[simp] theorem netOr8_eq (w : BitVec 8) : netOr8 w = or8 w := by
  have hor : or8 w = (w.getLsbD 0 || (w.getLsbD 1 || (w.getLsbD 2 || (w.getLsbD 3 || (w.getLsbD 4 || (w.getLsbD 5
      || (w.getLsbD 6 || (w.getLsbD 7 || false)))))))) := rfl
  simp only [netOr8, netOr_eq, hor, Bool.or_false]
  ac_rfl

theorem route_eq_pick2 {α : Type} (zero x : α) (sel : Sig) :
    route zero x 2 sel.toNat = [pick2 x zero sel, pick2 zero x sel] := by
  cases sel <;> rfl

/-- Settles O13: every network is the truth function that its gate drives. -/
theorem gateNetworksComputeTheGates : Obligations.GateNetworksComputeTheGates := by
  intro a b sel A B w s
  simp only [exec_not, exec_and, exec_or, exec_xor, exec_mux, exec_dmux, exec_not16, exec_and16, exec_or16, exec_xor16,
    exec_mux16, exec_dmux16, exec_or8way, netNot_eq, netAnd_eq, netOr_eq, netXor_eq, netMux_eq, netDmux_eq,
    each16_netNot, pairs16_netAnd, pairs16_netOr, pairs16_netXor, netMux16_eq, netDmux16_eq, netOr8_eq, route_eq_pick2,
    and_self]

/-! ### The selector trees (R83, R123) -/

theorem sel2_cases (sel : BitVec 2) : sel = 0 ∨ sel = 1 ∨ sel = 2 ∨ sel = 3 := by
  revert sel
  decide

theorem sel3_cases (sel : BitVec 3) :
    sel = 0 ∨ sel = 1 ∨ sel = 2 ∨ sel = 3 ∨ sel = 4 ∨ sel = 5 ∨ sel = 6 ∨ sel = 7 := by
  revert sel
  decide

section
variable {α : Type}

/-- The top selector bit chooses between the two lower pairs. -/
theorem tree4_pick2 {mux : α → α → Sig → α} (hmux : ∀ a b sel, mux a b sel = pick2 a b sel) (a b c d : α)
    (sel : BitVec 2) : tree4 mux a b c d (sel.getLsbD 1) (sel.getLsbD 0) = pick4 a b c d sel := by
  simp only [tree4, hmux]
  rcases sel2_cases sel with rfl | rfl | rfl | rfl <;> rfl

/-- The top selector bit chooses between the two lower trees of four. -/
theorem tree8_pick2 {mux : α → α → Sig → α} (hmux : ∀ a b sel, mux a b sel = pick2 a b sel) (a b c d e f g h : α)
    (sel : BitVec 3) :
    tree8 mux a b c d e f g h (sel.getLsbD 2) (sel.getLsbD 1) (sel.getLsbD 0) = pick8 a b c d e f g h sel := by
  simp only [tree8, tree4, hmux]
  rcases sel3_cases sel with rfl | rfl | rfl | rfl | rfl | rfl | rfl | rfl <;> rfl

theorem spread4_route {dmux : α → Sig → α × α} {zero : α}
    (hdmux : ∀ x sel, dmux x sel = (pick2 x zero sel, pick2 zero x sel)) (x : α) (sel : BitVec 2) :
    spread4 dmux x (sel.getLsbD 1) (sel.getLsbD 0) = route zero x 4 (uval sel) := by
  simp only [spread4, hdmux]
  rcases sel2_cases sel with rfl | rfl | rfl | rfl <;> rfl

theorem spread8_route {dmux : α → Sig → α × α} {zero : α}
    (hdmux : ∀ x sel, dmux x sel = (pick2 x zero sel, pick2 zero x sel)) (x : α) (sel : BitVec 3) :
    spread8 dmux x (sel.getLsbD 2) (sel.getLsbD 1) (sel.getLsbD 0) = route zero x 8 (uval sel) := by
  simp only [spread8, spread4, hdmux]
  rcases sel3_cases sel with rfl | rfl | rfl | rfl | rfl | rfl | rfl | rfl <;> rfl

end

/-- Settles O14: a tree of two-way choices picks the input, and a tree of two-way routes the output, that the selector
numbers. -/
theorem selectorTreesComputeTheMultiwayGates : Obligations.SelectorTreesComputeTheMultiwayGates := by
  intro a b c d e f g h A B C D E F G H p q s
  rw [tree4_pick2 netMux_eq, tree4_pick2 netMux16_eq, tree8_pick2 netMux_eq, tree8_pick2 netMux16_eq,
    spread4_route netDmux_eq, spread4_route netDmux16_eq, spread8_route netDmux_eq, spread8_route netDmux16_eq]
  exact ⟨exec_mux4way a b c d p s, exec_mux4way16 A B C D p s, exec_mux8way a b c d e f g h q s,
    exec_mux8way16 A B C D E F G H q s, exec_dmux4way a p s, exec_dmux4way16 A p s, exec_dmux8way a q s,
    exec_dmux8way16 A q s⟩

end Sys2Proof.Machine
end

section
/-! PROOFS. The full-adder and its networks, the carries of the ripple-carry network, and negation; and from them the
statements about the adders (41_arithmetic.md R141, R142, R145). -/

namespace Sys2Proof.Machine

@[simp] theorem exec_fulladder (a b c : Sig) (s : State) :
    exec (.fulladder a b c) s = .next (s.drive (outSumCarry (fullSum a b c) (fullCarry a b c))) := rfl

/-! ### The full-adder (R141) -/

@[simp] theorem netHalf_eq (a b : Sig) : netHalf a b = (halfSum a b, halfCarry a b) := by
  simp only [netHalf, netXor_eq, netAnd_eq, halfSum, halfCarry]

@[simp] theorem netFull_eq (a b c : Sig) : netFull a b c = (fullSum a b c, fullCarry a b c) := by
  simp only [netFull, netHalf_eq, netOr_eq, fullSum, fullCarry]

/-- The carry is the majority of the inputs. -/
theorem fullCarry_eq_majority (a b c : Sig) : fullCarry a b c = (a && b || a && c || b && c) := by
  cases a <;> cases b <;> cases c <;> rfl

/-- The two outputs are the digits of the sum of the inputs. -/
theorem two_mul_fullCarry_add_fullSum (a b c : Sig) :
    2 * (fullCarry a b c).toNat + (fullSum a b c).toNat = a.toNat + b.toNat + c.toNat := by
  cases a <;> cases b <;> cases c <;> rfl

/-- The second half-adder carries only when the first one's sum is 1, and then the first one does not carry. -/
theorem not_both_halfCarry (a b c : Sig) : ¬(halfCarry a b = true ∧ halfCarry (halfSum a b) c = true) := by
  cases a <;> cases b <;> cases c <;> decide

/-- Settles O17: the outputs are the two functions of the full-adder's network, whose rows are checked. -/
theorem fullAdderGivesSumAndCarry : Obligations.FullAdderGivesSumAndCarry := by
  intro a b c s
  refine ⟨fullSum a b c, fullCarry a b c, exec_fulladder a b c s, rfl, fullCarry_eq_majority a b c,
    (netFull_eq a b c).symm, two_mul_fullCarry_add_fullSum a b c, ?_⟩
  rw [netHalf_eq, netHalf_eq]
  exact not_both_halfCarry a b c

/-! ### The ripple-carry network (R142) -/

/-- The carry that the network passes into a position is the carry of the addition of the bits below it. -/
theorem rippleCarry_eq_carry (a b : Word) (k : Nat) : rippleCarry a b k = BitVec.carry k a b false := by
  induction k with
  | zero => rw [BitVec.carry_zero]; rfl
  | succ k ih => rw [rippleCarry, netFull_eq, ih, fullCarry_eq_majority, BitVec.carry_succ, Bool.atLeastTwo]

/-- Each position of the sum is the full-adder's sum of the two bits and the carry. -/
theorem netAdd16_eq (a b : Word) : netAdd16 a b = addWords a b := by
  refine BitVec.eq_of_getLsbD_eq fun k hk => ?_
  rw [netAdd16, addWords, BitVec.getLsbD_ofFnLE, dif_pos hk, BitVec.getLsbD_add hk, netFull_eq, rippleCarry_eq_carry]
  exact Bool.xor_assoc _ _ _

/-- Settles O18: the network's word is the sum of the words, and the library gives the sum's two values. -/
theorem rippleCarryNetworkComputesAdd16 : Obligations.RippleCarryNetworkComputesAdd16 := by
  intro a b s
  exact ⟨addWords a b, exec_add16 a b s, (netAdd16_eq a b).symm, uval_addWords a b, BitVec.toInt_add a b⟩

/-! ### Negation (R145) -/

theorem incWord_not (w : Word) : incWord (~~~w) = -w := (BitVec.neg_eq_not_add w).symm

/-- Settles O20: the complement plus one is the two's-complement negation, which gives the negated value except at the
least word, its own negation. -/
theorem complementPlusOneNegates : Obligations.ComplementPlusOneNegates := by
  intro w s
  refine ⟨~~~w, incWord (~~~w), _, exec_not16 w s, rfl, ?inc, fun hw => ?negates, ?least⟩
  case inc => rw [exec_inc16, exec_add16]; rfl
  case negates => rw [incWord_not, sval, BitVec.toInt_neg_of_ne_intMin hw]
  case least =>
    rintro rfl
    rfl

end Sys2Proof.Machine
end

section
/-! PROOFS. What every operation drives and what it commits, said once for all operations: the outputs (30_encoding.md
R81), and the one word or bit that an operation commits (10_state.md R32), as an update of the stored values. From them
the statements about outputs, writers, repetition and order. -/

namespace Sys2Proof.Machine

/-! ### What an operation drives -/

/-- R81: every operation completes; it drives its component's output ports, or faults and drives none. -/
theorem exec_outputs (i : Instr) (s : State) :
    ∃ t, exec i s = .next t
      ∧ ((t.outputs.map (fun p => (p.1, portWidth p.2)) = i.component.outputs ∧ t.faultMark = s.faultMark)
        ∨ (t.outputs = [] ∧ ∃ f, t.faultMark = some f)) := by
  cases i
  case memUnmappedWrite i x a =>
    simp only [exec, execMemUnmappedWrite]
    cases s.config.unmappedWrite
    · exact ⟨_, rfl, .inr ⟨rfl, _, rfl⟩⟩
    · exact ⟨_, rfl, .inl ⟨rfl, rfl⟩⟩
  case memUnmappedRead i x a load clock =>
    simp only [exec, execMemUnmappedRead]
    cases s.config.unmappedRead
    · exact ⟨_, rfl, .inl ⟨rfl, rfl⟩⟩
    · exact ⟨_, rfl, .inr ⟨rfl, _, rfl⟩⟩
  all_goals exact ⟨_, rfl, .inl ⟨rfl, rfl⟩⟩

/-- Settles O44: the state it completes in is the one whose outputs `exec_outputs` describes. -/
theorem everyOperationCompletes : Obligations.EveryOperationCompletes := by
  intro i s
  obtain ⟨t, hexec, -⟩ := exec_outputs i s
  exact ⟨t, hexec⟩

/-- Settles O5: the state it answers is the one whose outputs `exec_outputs` describes. -/
theorem evaluationDrivesItsOutputPorts : Obligations.EvaluationDrivesItsOutputPorts := by
  intro i s t h
  obtain ⟨u, hexec, hout⟩ := exec_outputs i s
  obtain rfl := Host.Outcome.next.inj (hexec.symm.trans h)
  exact hout

/-- Settles O15: every gate and adder drives a function of its operands alone; the other components are excluded. -/
theorem gatesArePureFunctions : Obligations.GatesArePureFunctions := by
  intro i s s' hseq hkeyboard
  cases i
  case keyboardRead => exact absurd rfl hkeyboard
  all_goals first | exact ⟨_, rfl, rfl⟩ | cases hseq

/-! ### What an operation commits -/

/-- The word an operation commits, and its value (R32, column "written by"). A PC.INC's value is that of the count held,
and the screen's word depends on the parameters; all the others depend on the operands only. -/
def wordCommit (s : State) : Instr → Option (WordRef × Word)
  | .registerLoad i x => some (registerRef i, x)
  | .pcReset i _ _ _ => some (pcRef i, 0x0000#16)
  | .pcLoad i x _ => some (pcRef i, x)
  | .pcInc i _ => some (pcRef i, incWord (s.readWord (pcRef i)))
  | .ram8Write i x a => some (ram8Ref i a, x)
  | .ram64Write i x a => some (ram64Ref i a, x)
  | .ram512Write i x a => some (ram512Ref i a, x)
  | .ram4kWrite i x a => some (ram4kRef i a, x)
  | .ram16kWrite i x a => some (ram16kRef i a, x)
  | .screenWrite i x a => some (screenRef i a, x)
  | .memRamWrite i x a => some (memRamRef i a, x)
  | .memScreenWrite i x a => some (memScreenRef s.config i a, x)
  | _ => none

/-- The bit an operation commits, and its value (R32, column "written by"). -/
def bitCommit : Instr → Option (BitRef × Sig)
  | .dffLatch i x => some (dffRef i, x)
  | .bitLoad i x => some (bitRef i, x)
  | _ => none

theorem exec_of_wordCommit {i : Instr} {s : State} {e : WordRef} {v : Word} (h : wordCommit s i = some (e, v)) :
    exec i s = evalCommitWord e v s := by
  cases i <;> cases h <;> rfl

theorem exec_of_bitCommit {i : Instr} {s : State} {e : BitRef} {v : Sig} (h : bitCommit i = some (e, v)) :
    exec i s = evalCommitBit e v s := by
  cases i <;> cases h <;> rfl

/-- An operation that commits neither a word nor a bit leaves the stores as they are. -/
theorem exec_store_of_no_commit {i : Instr} {s t : State} (hword : wordCommit s i = none) (hbit : bitCommit i = none)
    (h : exec i s = .next t) : t.store = s.store ∧ t.config = s.config := by
  refine ⟨?_, (exec_config_env h).1⟩
  cases i
  case memUnmappedWrite =>
    simp only [exec, execMemUnmappedWrite] at h
    split at h <;> cases h <;> rfl
  case memUnmappedRead =>
    simp only [exec, execMemUnmappedRead] at h
    split at h <;> cases h <;> rfl
  case dffLatch | bitLoad => cases hbit
  case registerLoad | pcReset | pcLoad | pcInc | ram8Write | ram64Write | ram512Write | ram4kWrite | ram16kWrite
      | screenWrite | memRamWrite | memScreenWrite => cases hword
  all_goals
    cases h
    rfl

/-! ### The stored values after an operation -/

section
variable {ρ α : Type} [DecidableEq ρ]

/-- The values after a commit, if there is one. -/
def applyCommit (c : Option (ρ × α)) (f : ρ → α) : ρ → α :=
  match c with
  | none => f
  | some (e, v) => Function.update f e v

theorem applyCommit_idem (c : Option (ρ × α)) (f : ρ → α) : applyCommit c (applyCommit c f) = applyCommit c f := by
  cases c with
  | none => rfl
  | some c => exact Function.update_idem _ _ _

/-- Commits to different elements may be made in either order. -/
theorem applyCommit_comm {c d : Option (ρ × α)} (h : ∀ x ∈ c, ∀ y ∈ d, x.1 ≠ y.1) (f : ρ → α) :
    applyCommit c (applyCommit d f) = applyCommit d (applyCommit c f) := by
  cases c with
  | none => rfl
  | some x =>
    cases d with
    | none => rfl
    | some y => exact Function.update_comm (h x rfl y rfl).symm _ _ _

theorem applyCommit_of_ne {c : Option (ρ × α)} {e : ρ} (h : ∀ x ∈ c, x.1 ≠ e) (f : ρ → α) : applyCommit c f e = f e := by
  cases c with
  | none => rfl
  | some x => exact Function.update_of_ne (h x rfl).symm _ _

end

/-- R160: an operation updates the stored words by its commit. -/
theorem exec_readWord {i : Instr} {s t : State} (h : exec i s = .next t) :
    t.readWord = applyCommit (wordCommit s i) s.readWord := by
  cases hword : wordCommit s i with
  | some c =>
    rw [exec_of_wordCommit hword] at h
    obtain ⟨hvalue, -, hframe⟩ := evalCommitWord_next h
    exact Function.eq_update_iff.mpr ⟨hvalue, hframe.words⟩
  | none =>
    cases hbit : bitCommit i with
    | some c =>
      rw [exec_of_bitCommit hbit] at h
      exact funext (evalCommitBit_next h).2.2.words
    | none =>
      obtain ⟨hstore, hconfig⟩ := exec_store_of_no_commit hword hbit h
      funext e
      rw [State.readWord, hstore, hconfig]
      rfl

/-- R160: an operation updates the stored bits by its commit. -/
theorem exec_readBit {i : Instr} {s t : State} (h : exec i s = .next t) :
    t.readBit = applyCommit (bitCommit i) s.readBit := by
  cases hbit : bitCommit i with
  | some c =>
    rw [exec_of_bitCommit hbit] at h
    obtain ⟨hvalue, -, hframe⟩ := evalCommitBit_next h
    exact Function.eq_update_iff.mpr ⟨hvalue, hframe.bits⟩
  | none =>
    cases hword : wordCommit s i with
    | some c =>
      rw [exec_of_wordCommit hword] at h
      exact funext (evalCommitWord_next h).2.2.bits
    | none =>
      obtain ⟨hstore, hconfig⟩ := exec_store_of_no_commit hword hbit h
      funext e
      rw [State.readBit, hstore, hconfig]
      rfl

/-- The commit is the same from any two states with the same parameters, and for a PC with the same count. -/
theorem wordCommit_congr {i : Instr} {s t : State} (hconfig : t.config = s.config)
    (hcount : i.component = .pc → t.readWord (pcRef i.inst) = s.readWord (pcRef i.inst)) :
    wordCommit t i = wordCommit s i := by
  cases i
  case pcInc i x => simp only [wordCommit, show t.readWord (pcRef i) = s.readWord (pcRef i) from hcount rfl]
  case memScreenWrite => simp only [wordCommit, hconfig]
  all_goals rfl

/-- Settles O43: the second evaluation makes the same commit again, which changes nothing. -/
theorem repeatingAMemoryEvaluationChangesNothing : Obligations.RepeatingAMemoryEvaluationChangesNothing := by
  intro i s t u hpc hfirst hsecond
  have hcommit : wordCommit t i = wordCommit s i :=
    wordCommit_congr (exec_config_env hfirst).1 fun h => absurd h hpc
  refine ⟨congrFun ?words, congrFun ?bits⟩
  case words => rw [exec_readWord hsecond, exec_readWord hfirst, hcommit, applyCommit_idem]
  case bits => rw [exec_readBit hsecond, exec_readBit hfirst, applyCommit_idem]

/-! ### Who commits to an element (R32) -/

/-- The component that holds a word element. -/
def wordOwner : WordBank → Component
  | .register => .register
  | .pc => .pc
  | .ram8 => .ram8
  | .ram64 => .ram64
  | .ram512 => .ram512
  | .ram4k => .ram4k
  | .ram16k => .ram16k
  | .screen => .screen
  | .kbd => .keyboard
  | .memRam | .memScreen | .memKbd => .memory

/-- The component that holds a bit element. -/
def bitOwner : BitBank → Component
  | .dff => .dff
  | .bit => .bit

/-- A word is committed by its own component and number only. -/
theorem wordCommit_owner {i : Instr} {s : State} {c : WordRef × Word} (h : wordCommit s i = some c) :
    (wordOwner c.1.bank, c.1.i) = (i.component, i.inst) := by
  cases i <;> cases h <;> rfl

theorem bitCommit_owner {i : Instr} {c : BitRef × Sig} (h : bitCommit i = some c) :
    (bitOwner c.1.bank, c.1.i) = (i.component, i.inst) := by
  cases i <;> cases h <;> rfl

/-- R32: a bit is committed by its named writer, under a high clock. -/
theorem bitCommit_writer {i : Instr} {c : BitRef × Sig} (h : bitCommit i = some c) :
    i.mnemonic ∈ bitWriters c.1.bank ∧ c.1.i = i.inst ∧ clockOf i = some true := by
  cases i <;> cases h <;> exact ⟨List.mem_singleton_self _, rfl, rfl⟩

theorem exec_changed_bit {i : Instr} {s t : State} {e : BitRef} (h : exec i s = .next t)
    (hne : t.readBit e ≠ s.readBit e) :
    i.mnemonic ∈ bitWriters e.bank ∧ e.i = i.inst ∧ clockOf i = some true := by
  by_contra hother
  rw [exec_readBit h] at hne
  refine hne (applyCommit_of_ne (fun c hc he => ?_) _)
  subst he
  exact hother (bitCommit_writer hc)

/-- Settles O45: an operation that changes an element commits to it, and so is one of its writers. -/
theorem onlyTheNamedWritersChangeAnElement : Obligations.OnlyTheNamedWritersChangeAnElement := by
  intro i s t h
  refine ⟨fun e hne => ?word, fun e hne => ?bit⟩
  case word =>
    obtain ⟨hwriter, hinst, -⟩ := exec_changed_word h hne
    exact ⟨hwriter, hinst⟩
  case bit =>
    obtain ⟨hwriter, hinst, -⟩ := exec_changed_bit h hne
    exact ⟨hwriter, hinst⟩

/-- An operation keeps the words of every other component and number. -/
theorem exec_keeps_other_word {i : Instr} {s t : State} {e : WordRef} (h : exec i s = .next t)
    (hne : (i.component, i.inst) ≠ (wordOwner e.bank, e.i)) : t.readWord e = s.readWord e := by
  rw [exec_readWord h]
  refine applyCommit_of_ne (fun c hc he => ?_) _
  subst he
  exact hne (wordCommit_owner hc).symm

/-- The commit of an operation does not depend on whether another has been evaluated before. -/
theorem wordCommit_after_other {i j : Instr} {s t : State} (hne : (i.component, i.inst) ≠ (j.component, j.inst))
    (h : exec j s = .next t) : wordCommit t i = wordCommit s i := by
  refine wordCommit_congr (exec_config_env h).1 fun hpc => exec_keeps_other_word h ?_
  rw [show (wordOwner (pcRef i.inst).bank, (pcRef i.inst).i) = (i.component, i.inst) from hpc ▸ rfl]
  exact hne.symm

/-- Settles O46: neither evaluation changes the other's commit, and the two commits are to different elements. -/
theorem evaluationOrderDoesNotMatterForFixedInputs : Obligations.EvaluationOrderDoesNotMatterForFixedInputs := by
  intro i j s s₁ s₂ t₁ t₂ hne hi hij hj hji
  have hcommitI : wordCommit t₁ i = wordCommit s i := wordCommit_after_other hne hj
  have hcommitJ : wordCommit s₁ j = wordCommit s j := wordCommit_after_other hne.symm hi
  refine ⟨congrFun ?words, congrFun ?bits⟩
  case words =>
    rw [exec_readWord hji, exec_readWord hj, exec_readWord hij, exec_readWord hi, hcommitI, hcommitJ]
    refine applyCommit_comm (fun c hc d hd he => hne ?_) _
    rw [← wordCommit_owner hc, ← wordCommit_owner hd, he]
  case bits =>
    rw [exec_readBit hji, exec_readBit hj, exec_readBit hij, exec_readBit hi]
    refine applyCommit_comm (fun c hc d hd he => hne ?_) _
    rw [← bitCommit_owner hc, ← bitCommit_owner hd, he]

end Sys2Proof.Machine
end

section
/-! PROOFS. What the remaining storage operations do, one equation each; the storage circuits as functions
(42_sequential.md R161 to R172); the row that a PC's port values select; and from them the statements about DFF, BIT,
REGISTER and PC, and about the memories' writes and unmapped accesses (43_memory_hierarchy.md R201 to R211, R221, R222). -/

namespace Sys2Proof.Machine

/-! ### What each operation does -/

@[simp] theorem exec_dffLatch (i : Inst) (x : Sig) (s : State) :
    exec (.dffLatch i x) s = evalCommitBit (dffRef i) x s := rfl
@[simp] theorem exec_dffHold (i : Inst) (x : Sig) (s : State) :
    exec (.dffHold i x) s = .next (s.drive (outSig (s.readBit (dffRef i)))) := rfl
@[simp] theorem exec_bitLoad (i : Inst) (x : Sig) (s : State) :
    exec (.bitLoad i x) s = evalCommitBit (bitRef i) x s := rfl
@[simp] theorem exec_bitHold (i : Inst) (x load clock : Sig) (s : State) :
    exec (.bitHold i x load clock) s = .next (s.drive (outSig (s.readBit (bitRef i)))) := rfl
@[simp] theorem exec_pcReset (i : Inst) (x : Word) (load inc : Sig) (s : State) :
    exec (.pcReset i x load inc) s = evalCommitWord (pcRef i) 0x0000#16 s := rfl
@[simp] theorem exec_ram8Write (i : Inst) (x : Word) (a : BitVec 3) (s : State) :
    exec (.ram8Write i x a) s = evalCommitWord (ram8Ref i a) x s := rfl
@[simp] theorem exec_ram64Write (i : Inst) (x : Word) (a : BitVec 6) (s : State) :
    exec (.ram64Write i x a) s = evalCommitWord (ram64Ref i a) x s := rfl
@[simp] theorem exec_ram512Write (i : Inst) (x : Word) (a : BitVec 9) (s : State) :
    exec (.ram512Write i x a) s = evalCommitWord (ram512Ref i a) x s := rfl
@[simp] theorem exec_ram4kWrite (i : Inst) (x : Word) (a : BitVec 12) (s : State) :
    exec (.ram4kWrite i x a) s = evalCommitWord (ram4kRef i a) x s := rfl
@[simp] theorem exec_ram16kWrite (i : Inst) (x : Word) (a : BitVec 14) (s : State) :
    exec (.ram16kWrite i x a) s = evalCommitWord (ram16kRef i a) x s := rfl
@[simp] theorem exec_screenWrite (i : Inst) (x : Word) (a : BitVec 14) (s : State) :
    exec (.screenWrite i x a) s = evalCommitWord (screenRef i a) x s := rfl

/-- R221 under the setting that faults. -/
theorem exec_memUnmappedWrite_fault {s : State} (h : s.config.unmappedWrite = .fault) (i : Inst) (x : Word)
    (a : BitVec 15) : exec (.memUnmappedWrite i x a) s = .next (s.raiseFault (.unmapped a)) := by
  simp only [exec, execMemUnmappedWrite, h, evalFault]

/-- R221 under the setting that ignores the write. -/
theorem exec_memUnmappedWrite_ignore {s : State} (h : s.config.unmappedWrite = .ignore) (i : Inst) (x : Word)
    (a : BitVec 15) : exec (.memUnmappedWrite i x a) s = .next s.driveDraw := by
  simp only [exec, execMemUnmappedWrite, h]

/-- R222 under the setting that draws. -/
theorem exec_memUnmappedRead_draw {s : State} (h : s.config.unmappedRead = .draw) (i : Inst) (x : Word)
    (a : BitVec 15) (load clock : Sig) : exec (.memUnmappedRead i x a load clock) s = .next s.driveDraw := by
  simp only [exec, execMemUnmappedRead, h]

/-- R222 under the setting that faults. -/
theorem exec_memUnmappedRead_fault {s : State} (h : s.config.unmappedRead = .fault) (i : Inst) (x : Word)
    (a : BitVec 15) (load clock : Sig) :
    exec (.memUnmappedRead i x a load clock) s = .next (s.raiseFault (.unmapped a)) := by
  simp only [exec, execMemUnmappedRead, h, evalFault]

/-- R160: a committing evaluation of a bit completes; `evalCommitBit_next` says in which state. -/
theorem evalCommitBit_completes (e : BitRef) (v : Sig) (s : State) :
    ∃ t, evalCommitBit e v s = .next t ∧ t.readBit e = v ∧ t.outputs = outSig v ∧ s.ChangesOnlyBit e t :=
  ⟨_, rfl, evalCommitBit_next rfl⟩

/-- Driving the outputs alone changes no word. -/
theorem State.changesOnlyWord_drive (s : State) (e : WordRef) (o : List (PortName × PortValue)) :
    s.ChangesOnlyWord e (s.drive o) where
  words _ _ := rfl
  bits _ := rfl
  config := rfl
  draws := rfl
  faultMark := rfl
  env := rfl

/-- Settles O21: DFF.LATCH is a committing evaluation of the bit, DFF.HOLD a reading one. -/
theorem dffLatchesAndHolds : Obligations.DffLatchesAndHolds := by
  intro i x s
  refine ⟨?latch, exec_dffHold i x s⟩
  rw [exec_dffLatch]
  exact evalCommitBit_completes (dffRef i) x s

/-- Settles O22: BIT.LOAD is a committing evaluation of the bit, BIT.HOLD a reading one. -/
theorem bitLoadsAndHolds : Obligations.BitLoadsAndHolds := by
  intro i x load clock s
  refine ⟨?load, exec_bitHold i x load clock s⟩
  rw [exec_bitLoad]
  exact evalCommitBit_completes (bitRef i) x s

/-- Settles O25: PC.RESET is a committing evaluation of the count with the word 0, whatever its operands are. -/
theorem pcResetForcesZero : Obligations.PcResetForcesZero := by
  intro i x load inc s
  rw [exec_pcReset]
  exact evalCommitWord_completes (pcRef i) 0x0000#16 s

/-- Settles O30: every write is a committing evaluation of the word at the widened address. -/
theorem memoryWritesCommitOneWord : Obligations.MemoryWritesCommitOneWord := by
  intro i x a3 a6 a9 a12 a14 s
  simp only [exec_ram8Write, exec_ram64Write, exec_ram512Write, exec_ram4kWrite, exec_ram16kWrite, exec_screenWrite]
  exact ⟨evalCommitWord_completes (ram8Ref i a3) x s, evalCommitWord_completes (ram64Ref i a6) x s,
    evalCommitWord_completes (ram512Ref i a9) x s, evalCommitWord_completes (ram4kRef i a12) x s,
    evalCommitWord_completes (ram16kRef i a14) x s, evalCommitWord_completes (screenRef i a14) x s⟩

/-- Settles O36: the two settings, the fault and the draw. -/
theorem unmappedWriteFaultsOrIsIgnored : Obligations.UnmappedWriteFaultsOrIsIgnored := by
  intro i x a s
  exact ⟨fun h => exec_memUnmappedWrite_fault h i x a, fun h => exec_memUnmappedWrite_ignore h i x a⟩

/-- Settles O37: the two settings, the draw and the fault. -/
theorem unmappedReadDrawsOrFaults : Obligations.UnmappedReadDrawsOrFaults := by
  intro i x a load clock s
  exact ⟨fun h => exec_memUnmappedRead_draw h i x a load clock, fun h => exec_memUnmappedRead_fault h i x a load clock⟩

/-! ### The program counter's priority (R172) -/

/-- The next count: reset, then load, then increment, and hold; in a low phase the count is held (D10). -/
def nextCount (count x : Word) (reset load inc clock : Sig) : Word :=
  if clock = true then if reset = true then 0x0000#16 else if load = true then x
    else if inc = true then count + 1#16 else count
  else count

/-- R88: the PC row that the port values select changes only the count, drives it, and gives it by the priority. -/
theorem exec_selectPc (i : Inst) (x : Word) (reset load inc clock : Sig) (s : State) :
    ∃ t, exec (selectPc i x reset load inc clock) s = .next t ∧ s.ChangesOnlyWord (pcRef i) t
      ∧ t.outputs = outWord (t.readWord (pcRef i))
      ∧ t.readWord (pcRef i) = nextCount (s.readWord (pcRef i)) x reset load inc clock := by
  have hcommit : ∀ v : Word, ∃ t, evalCommitWord (pcRef i) v s = .next t ∧ s.ChangesOnlyWord (pcRef i) t
      ∧ t.outputs = outWord (t.readWord (pcRef i)) ∧ t.readWord (pcRef i) = v := by
    intro v
    obtain ⟨t, hexec, hvalue, hout, hframe⟩ := evalCommitWord_completes (pcRef i) v s
    exact ⟨t, hexec, hframe, hvalue ▸ hout, hvalue⟩
  have hhold : ∃ t, evalReadWord (pcRef i) s = .next t ∧ s.ChangesOnlyWord (pcRef i) t
      ∧ t.outputs = outWord (t.readWord (pcRef i)) ∧ t.readWord (pcRef i) = s.readWord (pcRef i) :=
    ⟨_, rfl, s.changesOnlyWord_drive _ _, rfl, rfl⟩
  cases clock with
  | false => exact hhold
  | true =>
    cases reset with
    | true => exact hcommit 0x0000#16
    | false =>
      cases load with
      | true => exact hcommit x
      | false =>
        cases inc with
        | true => exact hcommit (s.readWord (pcRef i) + 1#16)
        | false => exact hhold

/-- The port values of a PC select its row by the priority. -/
theorem select_pc (cfg : Config) (i : Inst) (x : Word) (reset load inc clock : Sig) :
    select cfg i .pc [x.toNat, reset.toNat, load.toNat, inc.toNat, clock.toNat]
      = some (selectPc i x reset load inc clock) := by
  simp only [select, wordOf_toNat, sigOf_toNat]

/-- Settles O27: the port values select the row of `selectPc`, which gives the count by the priority. -/
theorem pcPriorityDecidesTheNextCount : Obligations.PcPriorityDecidesTheNextCount := by
  intro cfg i x reset load inc clock s
  obtain ⟨t, hexec, hframe, hout, hcount⟩ := exec_selectPc i x reset load inc clock s
  exact ⟨_, t, select_pc cfg i x reset load inc clock, hexec, hframe, hout, hcount⟩

/-! ### The storage circuits (R161 to R172) -/

/-- D9: a BIT adopts its input when `load` and `clock` are both 1. -/
theorem bitCircuit_eq (q x load clock : Sig) : bitCircuit q x load clock = if load && clock then x else q := by
  rw [bitCircuit, netAnd_eq, dffCircuit]

/-- R23: the 16 BITs of a REGISTER share `load` and `clock`, so they adopt the word together. -/
theorem registerCircuit_eq (r x : Word) (load clock : Sig) :
    registerCircuit r x load clock = if load && clock then x else r := by
  ext k hk
  simp only [registerCircuit, BitVec.getElem_ofFnLE, bitCircuit_eq]
  cases load && clock <;> rfl

theorem netInc16_eq (w : Word) : netInc16 w = w + 1#16 := netAdd16_eq w 0x0001#16

/-- R172: the multiplexers and the load line make the priority. -/
theorem pcCircuit_eq (count x : Word) (reset load inc clock : Sig) :
    pcCircuit count x reset load inc clock = nextCount count x reset load inc clock := by
  simp only [pcCircuit, registerCircuit_eq, netMux16_eq, netOr_eq, netInc16_eq, nextCount]
  cases clock <;> cases reset <;> cases load <;> cases inc <;> rfl

/-- Settles O28: the row is chosen by the control inputs as the circuit's load line is, and a commit stores the input. -/
theorem storageRowsDoWhatTheCircuitsDo : Obligations.StorageRowsDoWhatTheCircuitsDo := by
  intro cfg i x c reset load inc clock w s
  refine ⟨?dff, ?bit, ?register, ?pc⟩
  case dff =>
    simp only [select, sigOf_toNat, dffCircuit]
    cases c
    · exact ⟨_, _, rfl, exec_dffHold i x s, rfl⟩
    · exact ⟨_, _, rfl, exec_dffLatch i x s, by simp⟩
  case bit =>
    simp only [select, sigOf_toNat, bitCircuit_eq, Bool.and_comm clock load]
    cases load && clock
    · exact ⟨_, _, rfl, exec_bitHold i x load clock s, rfl⟩
    · exact ⟨_, _, rfl, exec_bitLoad i x s, by simp⟩
  case register =>
    simp only [select, sigOf_toNat, wordOf_toNat, registerCircuit_eq, Bool.and_comm clock load]
    cases load && clock
    · exact ⟨_, _, rfl, exec_registerHold i w load clock s, rfl⟩
    · exact ⟨_, _, rfl, exec_registerLoad i w s, by simp⟩
  case pc =>
    obtain ⟨t, hexec, -, -, hcount⟩ := exec_selectPc i w reset load inc clock s
    exact ⟨_, t, select_pc cfg i w reset load inc clock, hexec, by rw [pcCircuit_eq, hcount]⟩

end Sys2Proof.Machine
end

section
/-! PROOFS. The main memory: the regions by addresses and by address bits (20_memory.md R55), and what a MEMORY's
evaluation commits, by the region its address decodes to (43_memory_hierarchy.md R214). -/

namespace Sys2Proof

/-! ### The regions -/

/-- R5, as a proposition. -/
theorem Config.wf_iff {cfg : Config} : cfg.wf = true ↔ ramWords ≤ cfg.screenBase
    ∧ cfg.screenBase + cfg.screenWords ≤ memAddresses ∧ ramWords ≤ cfg.kbdAddr ∧ cfg.kbdAddr < memAddresses
    ∧ (cfg.kbdAddr < cfg.screenBase ∨ cfg.screenBase + cfg.screenWords ≤ cfg.kbdAddr) := by
  simp only [Config.wf, Bool.and_eq_true, Bool.or_eq_true, decide_eq_true_eq, and_assoc]

/-- Under legal parameters the regions are disjoint, so the order in which they are tested does not matter. -/
theorem Config.region_iff {cfg : Config} (h : cfg.wf = true) (a : BitVec 15) :
    (cfg.region a = .ram ↔ uval a < ramWords)
      ∧ (cfg.region a = .screen ↔ cfg.screenBase ≤ uval a ∧ uval a < cfg.screenBase + cfg.screenWords)
      ∧ (cfg.region a = .keyboard ↔ uval a = cfg.kbdAddr) := by
  obtain ⟨hscreen, -, hkbd, -, hdisjoint⟩ := Config.wf_iff.mp h
  unfold Config.region
  split_ifs <;> simp <;> omega

/-- The two address bits that tell the default regions apart. -/
theorem addressBits (a : BitVec 15) :
    (a.getLsbD 14 = true ↔ 0x4000 ≤ a.toNat) ∧ (a.getLsbD 13 = true ↔ a.toNat / 2 ^ 13 % 2 = 1) := by
  have ha := a.isLt
  simp only [BitVec.getLsbD, Nat.testBit_eq_decide_div_mod_eq, decide_eq_true_eq, and_true]
  constructor <;> omega

/-- Settles O38: the regions under legal parameters are disjoint; under the defaults their ends are where bits 14 and 13
of the address change. -/
theorem addressMapPartitionsTheSpace : Obligations.AddressMapPartitionsTheSpace := by
  refine ⟨fun cfg a h => Config.region_iff h a, fun a => ?_⟩
  obtain ⟨hbit14, hbit13⟩ := addressBits a
  have ha := a.isLt
  have hkeyboard : a = 0x6000#15 ↔ a.toNat = 0x6000 := BitVec.toNat_inj.symm
  rw [← Bool.not_eq_true, ← Bool.not_eq_true, ne_eq, hkeyboard, hbit14, hbit13, region_standard]
  split_ifs <;> simp <;> omega

end Sys2Proof

namespace Sys2Proof.Machine

/-! ### What a MEMORY's evaluation commits -/

/-- R214: the only word committed is one of the RAM at a RAM address, or of the screen at a screen address, and it is
committed only when `load` and `clock` are both 1. -/
theorem wordCommit_selectMemory {i : Inst} {x : Word} {a : BitVec 15} {load clock : Sig} {s : State}
    {c : WordRef × Word} (h : wordCommit s (selectMemory s.config i x a load clock) = some c) :
    ((c.1.bank = .memRam ∧ s.config.region a = .ram) ∨ (c.1.bank = .memScreen ∧ s.config.region a = .screen))
      ∧ (load && clock) = true := by
  unfold selectMemory at h
  cases hregion : s.config.region a <;> cases load <;> cases clock <;> rw [hregion] at h <;> cases h
  case ram => exact ⟨.inl ⟨rfl, rfl⟩, rfl⟩
  case screen => exact ⟨.inr ⟨rfl, rfl⟩, rfl⟩

theorem bitCommit_selectMemory (cfg : Config) (i : Inst) (x : Word) (a : BitVec 15) (load clock : Sig) :
    bitCommit (selectMemory cfg i x a load clock) = none := by
  unfold selectMemory
  cases cfg.region a <;> cases load <;> cases clock <;> rfl

/-- Settles O39: the operation is the one `selectMemory` gives; a word that changes is the one it commits. -/
theorem memoryActsInTheSelectedRegionOnly : Obligations.MemoryActsInTheSelectedRegionOnly := by
  intro i x a load clock s
  obtain ⟨t, hexec, -⟩ := exec_outputs (selectMemory s.config i x a load clock) s
  have hword : ∀ e : WordRef, (¬((e.bank = .memRam ∧ s.config.region a = .ram)
      ∨ (e.bank = .memScreen ∧ s.config.region a = .screen)) ∨ (load && clock) = false) →
      t.readWord e = s.readWord e := by
    intro e hother
    rw [exec_readWord hexec]
    refine applyCommit_of_ne (fun c hc he => ?_) _
    obtain ⟨hregion, hboth⟩ := wordCommit_selectMemory hc
    subst he
    rcases hother with hother | hidle
    · exact hother hregion
    · rw [hboth] at hidle
      cases hidle
  have hbit : ∀ b, t.readBit b = s.readBit b := by
    intro b
    rw [exec_readBit hexec, bitCommit_selectMemory]
    rfl
  refine ⟨_, t, by simp only [select, wordOf_toNat, sigOf_toNat, BitVec.ofNat_toNat, BitVec.setWidth_eq],
    selectMemory_wellFormed .., hexec, ?ram, ?screen, ?others, hbit, ?idle⟩
  case ram => exact fun hregion e hbank => hword e (.inl (by simp [hbank, hregion]))
  case screen => exact fun hregion e hbank => hword e (.inl (by simp [hbank, hregion]))
  case others => exact fun e hram hscreen => hword e (.inl (by simp [hram, hscreen]))
  case idle => exact fun hidle => ⟨fun e => hword e (.inr hidle), hbit⟩

end Sys2Proof.Machine
end

section
/-! PROOFS. The RAM tree (43_memory_hierarchy.md R200): lists of blocks of one length, the tree's evaluation by induction
over its levels, the digits of an address (30_encoding.md R84), and the simulation of the RAM operations by the trees. -/

namespace Sys2Proof.Machine

/-! ### Blocks of one length, side by side -/

section
variable {α : Type}

/-- Position `j * n + r` of blocks of length `n` is position `r` of block `j`. -/
theorem getElem?_flatten_blocks {n j r : Nat} {blocks : List (List α)} (hlength : ∀ b ∈ blocks, b.length = n)
    (hr : r < n) : blocks.flatten[j * n + r]? = blocks[j]?.bind (·[r]?) := by
  induction blocks generalizing j with
  | nil => simp
  | cons b blocks ih =>
    have hb : b.length = n := hlength b List.mem_cons_self
    have hrest := fun b' hb' => hlength b' (List.mem_cons_of_mem b hb')
    cases j with
    | zero => simp [List.getElem?_append_left (hb.symm ▸ hr : r < b.length)]
    | succ j =>
      rw [List.flatten_cons, List.getElem?_append_right (by rw [hb, Nat.add_mul]; omega), hb,
        show (j + 1) * n + r - n = j * n + r by rw [Nat.add_mul]; omega, ih hrest]
      rfl

/-- Setting position `j * n + r` of blocks of length `n` sets position `r` of block `j`. -/
theorem set_flatten_blocks {n j r : Nat} {blocks : List (List α)} (hlength : ∀ b ∈ blocks, b.length = n) (hr : r < n)
    (x : α) : blocks.flatten.set (j * n + r) x = (blocks.modify j (·.set r x)).flatten := by
  induction blocks generalizing j with
  | nil => simp
  | cons b blocks ih =>
    have hb : b.length = n := hlength b List.mem_cons_self
    have hrest := fun b' hb' => hlength b' (List.mem_cons_of_mem b hb')
    cases j with
    | zero => simp [List.set_append_left _ _ (hb.symm ▸ hr : r < b.length)]
    | succ j =>
      rw [List.flatten_cons, List.set_append_right _ _ (by rw [hb, Nat.add_mul]; omega), hb,
        show (j + 1) * n + r - n = j * n + r by rw [Nat.add_mul]; omega, ih hrest]
      rfl

end

/-! ### The tree's evaluation -/

theorem RamTree.length_words {ws : List Nat} {tree : RamTree} (h : tree.shaped ws) :
    (tree.words ws.length).length = 2 ^ ws.sum := by
  induction ws generalizing tree with
  | nil =>
    cases tree with
    | leaf r => rfl
    | node subs => cases h
  | cons w ws ih =>
    cases tree with
    | leaf r => cases h
    | node subs =>
      obtain ⟨hlength, hsubs⟩ := h
      rw [List.length_cons, RamTree.words, List.length_flatMap, List.map_congr_left fun sub hsub => ih (hsubs sub hsub),
        List.map_const', List.sum_replicate, hlength, List.sum_cons, pow_add, smul_eq_mul]

/-- The blocks of a node whose sub-blocks have one shape have one length. -/
theorem RamTree.length_blocks {ws : List Nat} {subs : List RamTree} (h : ∀ sub ∈ subs, sub.shaped ws) :
    ∀ b ∈ subs.map (RamTree.words ws.length), b.length = 2 ^ ws.sum := by
  intro b hb
  obtain ⟨sub, hsub, rfl⟩ := List.mem_map.mp hb
  exact RamTree.length_words (h sub hsub)

/-- R200: the decoder's line to sub-block `k`. -/
theorem getD_route {n j k : Nat} (hk : k < n) (load : Sig) :
    (route false load n j).getD k false = if j = k then load else false := by
  simp [route, List.getD, hk]

/-- R200: what a level does: it evaluates every sub-block, with `load` for the selected one only, whose output it
shows. -/
theorem RamTree.eval_node (x : Word) (clock : Sig) (j : Nat) (js : List Nat) (load : Sig) (subs : List RamTree) :
    RamTree.eval x clock (j :: js) load (.node subs)
      = (.node (subs.mapIdx fun k sub => (sub.eval x clock js (if j = k then load else false)).1),
        (subs[j]?.map fun sub => (sub.eval x clock js load).2).getD 0) := by
  have hlines : (subs.mapIdx fun k sub => sub.eval x clock js ((route false load subs.length j).getD k false))
      = subs.mapIdx fun k sub => sub.eval x clock js (if j = k then load else false) := by
    refine List.ext_getElem (by simp) fun k hk _ => ?_
    rw [List.length_mapIdx] at hk
    rw [List.getElem_mapIdx, List.getElem_mapIdx, getD_route hk]
  rw [RamTree.eval, hlines]
  refine Prod.ext (congrArg RamTree.node (List.ext_getElem (by simp) fun k _ _ => by simp)) ?_
  simp [List.getD, Function.comp_def]

/-- R200: one evaluation of a tree. Its leaves are set at the index when `clock` and `load` are both 1, and the output is
the leaf at the index afterwards. At a level, the decoder passes `load` to one sub-block, so the induction hypothesis
sets a leaf of that one and leaves the others. -/
theorem RamTree.eval_spec (x : Word) (clock : Sig) {ws : List Nat} {tree : RamTree} {i : Nat} (load : Sig)
    (h : tree.shaped ws) (hi : i < 2 ^ ws.sum) :
    (tree.eval x clock (ramDigits ws i) load).1.shaped ws
      ∧ (tree.eval x clock (ramDigits ws i) load).1.words ws.length
        = (if clock && load then (tree.words ws.length).set i x else tree.words ws.length)
      ∧ (tree.eval x clock (ramDigits ws i) load).2
        = ((tree.eval x clock (ramDigits ws i) load).1.words ws.length).getD i 0 := by
  induction ws generalizing tree i load with
  | nil =>
    cases tree with
    | node subs => cases h
    | leaf r =>
      obtain rfl : i = 0 := by simpa using hi
      refine ⟨trivial, ?_, rfl⟩
      simp only [ramDigits, RamTree.eval, registerCircuit_eq, Bool.and_comm clock load]
      cases load && clock <;> rfl
  | cons w ws ih =>
    cases tree with
    | leaf r => cases h
    | node subs =>
      obtain ⟨hlength, hsubs⟩ := h
      have hj : i / 2 ^ ws.sum < subs.length := by
        rw [hlength, Nat.div_lt_iff_lt_mul (Nat.two_pow_pos _), ← pow_add, ← List.sum_cons]
        exact hi
      have hr : i % 2 ^ ws.sum < 2 ^ ws.sum := Nat.mod_lt _ (Nat.two_pow_pos _)
      have hsub := fun k (hk : k < subs.length) load' => ih load' (hsubs subs[k] (List.getElem_mem hk)) hr
      generalize hdigit : i / 2 ^ ws.sum = j at *
      generalize hrest : i % 2 ^ ws.sum = r at *
      obtain rfl : i = j * 2 ^ ws.sum + r := by rw [← hdigit, ← hrest, Nat.div_add_mod']
      have hblocks : (subs.mapIdx fun k sub => (sub.eval x clock (ramDigits ws r) (if j = k then load else false)).1).map
            (RamTree.words ws.length)
          = if clock && load then (subs.map (RamTree.words ws.length)).modify j (·.set r x)
            else subs.map (RamTree.words ws.length) := by
        refine List.ext_getElem (by split <;> simp) fun k hk _ => ?_
        rw [List.length_map, List.length_mapIdx] at hk
        rw [List.getElem_map, List.getElem_mapIdx, (hsub k hk _).2.1]
        by_cases hboth : (clock && load) = true
        · simp only [if_pos hboth, List.getElem_modify, List.getElem_map]
          by_cases hkj : j = k <;> simp [hkj, hboth]
        · simp only [if_neg hboth, List.getElem_map]
          by_cases hkj : j = k <;> simp [hkj, hboth]
      rw [ramDigits, hdigit, hrest, RamTree.eval_node]
      have hshaped : ∀ sub ∈ subs.mapIdx fun k sub =>
          (sub.eval x clock (ramDigits ws r) (if j = k then load else false)).1, sub.shaped ws := by
        intro sub hmem
        obtain ⟨k, hk, rfl⟩ := List.mem_mapIdx.mp hmem
        exact (hsub k hk _).1
      refine ⟨⟨by rw [List.length_mapIdx, hlength], hshaped⟩, ?words, ?out⟩
      case words =>
        rw [List.length_cons, RamTree.words, RamTree.words, List.flatMap_def, List.flatMap_def, hblocks,
          set_flatten_blocks (RamTree.length_blocks hsubs) hr]
        split <;> rfl
      case out =>
        rw [List.length_cons, RamTree.words, List.flatMap_def, List.getD_eq_getElem?_getD,
          getElem?_flatten_blocks (RamTree.length_blocks hshaped) hr]
        simp [hj, (hsub j hj load).2.2]

/-- Settles O41: the array form is what `RamTree.eval_spec` says of the leaves and the output. -/
theorem ramTreeBehavesAsAnArray : Obligations.RamTreeBehavesAsAnArray := by
  intro ws tree x i load clock hshaped hi
  obtain ⟨hshaped', hwords, hout⟩ := RamTree.eval_spec x clock load hshaped hi
  refine ⟨hshaped', Prod.ext hwords ?_⟩
  rw [hout, hwords]
  rfl

/-! ### The RAM operations -/

/-- An array whose reads and writes are evaluations of the word that the address names, one word for each address, is
simulated by the tree of its levels. -/
theorem ramSimulates {k : Nat} {levels : List Nat} {ref : BitVec k → WordRef} {write : Word → BitVec k → Instr}
    {read : Word → BitVec k → Sig → Sig → Instr} (hlevels : levels.sum = k) (href : ∀ a b, ref b = ref a ↔ b = a)
    (hwrite : ∀ x a s, exec (write x a) s = evalCommitWord (ref a) x s)
    (hread : ∀ x a load clock s, exec (read x a load clock) s = evalReadWord (ref a) s) :
    RamSimulates levels ref write read := by
  intro tree s x a load clock hshaped hrep
  have ha : uval a < 2 ^ levels.sum := hlevels ▸ a.isLt
  obtain ⟨hshaped', hwords, hout⟩ := RamTree.eval_spec x clock load hshaped ha
  have hstep : ∃ t, exec (if clock && load then write x a else read x a load clock) s = .next t
      ∧ Represents levels ref (tree.eval x clock (ramDigits levels (uval a)) load).1 t
      ∧ t.outputs = outWord (t.readWord (ref a)) := by
    simp only [Represents, hwords]
    by_cases hboth : (clock && load) = true
    · simp only [if_pos hboth, hwrite]
      refine ⟨_, rfl, fun b => ?_, by simp⟩
      rw [State.readWord_drive, State.readWord_commitWord, List.getElem?_set, RamTree.length_words hshaped]
      by_cases hab : b = a
      · simp [hab, ha]
      · have hne : uval a ≠ uval b := fun h => hab (BitVec.eq_of_toNat_eq h).symm
        simp [href, hab, hne, hrep b]
    · simp only [if_neg hboth, hread]
      exact ⟨_, rfl, hrep, rfl⟩
  obtain ⟨t, hexec, hrep', houtput⟩ := hstep
  refine ⟨t, hexec, hshaped', hrep', ?_⟩
  rw [houtput, hout, List.getD_eq_getElem?_getD, hrep' a, Option.getD_some]

/-- Settles O42: each RAM is such an array, whose words are named by the widened address. -/
theorem ramOperationsSimulateTheTrees : Obligations.RamOperationsSimulateTheTrees := by
  intro i
  refine ⟨?ram8, ?ram64, ?ram512, ?ram4k, ?ram16k⟩
  case ram8 =>
    exact ramSimulates rfl (fun _ _ => WordRef.setWidth_addr_inj (by decide) .ram8 i) (exec_ram8Write i) (exec_ram8Read i)
  case ram64 =>
    exact ramSimulates rfl (fun _ _ => WordRef.setWidth_addr_inj (by decide) .ram64 i) (exec_ram64Write i)
      (exec_ram64Read i)
  case ram512 =>
    exact ramSimulates rfl (fun _ _ => WordRef.setWidth_addr_inj (by decide) .ram512 i) (exec_ram512Write i)
      (exec_ram512Read i)
  case ram4k =>
    exact ramSimulates rfl (fun _ _ => WordRef.setWidth_addr_inj (by decide) .ram4k i) (exec_ram4kWrite i)
      (exec_ram4kRead i)
  case ram16k =>
    exact ramSimulates rfl (fun _ _ => WordRef.setWidth_addr_inj (by decide) .ram16k i) (exec_ram16kWrite i)
      (exec_ram16kRead i)

/-! ### The digits of an address -/

/-- R84: a level's digit is a field of the address. -/
theorem uval_extractLsb' {n : Nat} (a : BitVec n) (start width : Nat) :
    uval (a.extractLsb' start width) = uval a / 2 ^ start % 2 ^ width := by
  rw [uval, BitVec.extractLsb'_toNat, Nat.shiftRight_eq_div_pow]

/-- Settles O40: each digit is the quotient of the remainder left by the levels above. -/
theorem ramLevelsTakeHighOrderBitsFirst : Obligations.RamLevelsTakeHighOrderBitsFirst := by
  refine ⟨fun a => ?ram8, fun a => ?ram64, fun a => ?ram512, fun a => ?ram4k, fun a => ?ram16k⟩ <;>
    have ha : uval a < _ := a.isLt
  all_goals
    simp only [ramLevels, ramDigits, uval_extractLsb', List.sum_cons, List.sum_nil, List.cons.injEq, and_true]
    omega

end Sys2Proof.Machine
end

section
/-! PROOFS. The clock's moves and the environment's side after an evaluation; the layers of a step in each of their
cases; and from them the statements about the clock, the phases, the host and the end of a run (70_reset_and_hazards.md
R403 to R411, 60_exceptions.md R302, R311, R314). -/

namespace Sys2Proof.Machine

/-! ### The clock's moves (R403) -/

@[simp] theorem Env.evaluated_advance (v : Env) : v.advance.evaluated = [] := by
  unfold Env.advance
  split <;> rfl

@[simp] theorem Env.stopped_advance (v : Env) : v.advance.stopped = v.stopped := by
  unfold Env.advance
  split <;> rfl

@[simp] theorem Env.stopped_forClock (v : Env) (clock : Option Sig) : (v.forClock clock).stopped = v.stopped := by
  unfold Env.forClock
  split <;> rfl

@[simp] theorem Env.phase_forClock_true (v : Env) : (v.forClock (some true)).phase = .high := by
  cases h : v.phase <;> simp [Env.forClock, Env.enter, Env.enterCycle, h]

@[simp] theorem Env.phase_forClock_false (v : Env) : (v.forClock (some false)).phase = .low := by
  cases h : v.phase <;> simp [Env.forClock, Env.enterCycle, h]

theorem Env.phase_forClock_ne_between (v : Env) (clock : Option Sig) : (v.forClock clock).phase ≠ .between := by
  cases h : v.phase <;> rcases clock with _ | _ | _ <;> simp [Env.forClock, Env.enter, Env.enterCycle, h]

/-- The clock stands, or it has entered a phase in which nothing has been evaluated yet. -/
theorem Env.forClock_cases (v : Env) (clock : Option Sig) :
    v.forClock clock = v ∨ (v.forClock clock).evaluated = [] := by
  unfold Env.forClock
  split <;> first | exact .inl rfl | exact .inr rfl

/-- R29: where an evaluation has taken place, the clock stands for another with the same clock value, or with none. -/
theorem Env.forClock_again (v : Env) {clock clock' : Option Sig} (h : clock' = clock ∨ clock' = none)
    (marks : List (Component × Inst)) :
    ({ v.forClock clock with evaluated := marks } : Env).forClock clock'
      = { v.forClock clock with evaluated := marks } := by
  obtain ⟨schedule, phase, cycle, evaluated, inspected, stopped⟩ := v
  rcases h with rfl | rfl
  · cases phase <;> rcases clock' with _ | _ | _ <;> rfl
  · cases phase <;> rcases clock with _ | _ | _ <;> rfl

/-! ### The environment's side after an evaluation -/

/-- The clock's position for the evaluation, with the mark of a sequential component (R405). -/
theorem evaluate_env {i : Instr} {s t : State} (h : evaluate i s = .next t) :
    t.config = s.config ∧ t.env = { s.env.forClock (clockOf i) with
      evaluated := if i.component.sequential = true then (i.component, i.inst) :: (s.env.forClock (clockOf i)).evaluated
        else (s.env.forClock (clockOf i)).evaluated } := by
  rcases evaluate_next h with ⟨hseq, -, hexec⟩ | ⟨hseq, hexec⟩
  · rw [if_pos hseq]
    exact exec_config_env hexec
  · rw [if_neg (by simp [hseq])]
    exact exec_config_env hexec

theorem evaluate_phase {i : Instr} {s t : State} (h : evaluate i s = .next t) :
    t.env.phase = (s.env.forClock (clockOf i)).phase := by
  rw [(evaluate_env h).2]

/-- Settles O48: the clock stands for the second evaluation, and the mark of the first is there. -/
theorem secondEvaluationInAPhaseIsRefused : Obligations.SecondEvaluationInAPhaseIsRefused := by
  intro i j s t hseq h hcomponent hinst hclock
  have henv := (evaluate_env h).2
  rw [if_pos hseq] at henv
  have hstands : t.env.forClock (clockOf j) = t.env := by
    rw [henv]
    exact Env.forClock_again s.env hclock _
  have hmark : (i.component, i.inst) ∈ t.env.evaluated := by
    rw [henv]
    exact List.mem_cons_self
  simp only [evaluate, hstands, hcomponent, hinst]
  rw [if_pos hseq, if_pos hmark]

/-- Settles O50: the clock's three moves, and the phase of an evaluation's clock value. -/
theorem phasesAlternate : Obligations.PhasesAlternate := by
  refine ⟨fun v => ⟨fun h => ?between, fun h => ?low, fun h => ?high, v.evaluated_advance⟩, fun i s t h => ?evaluation⟩
  case between | low | high => simp [Env.advance, h, Env.enter, Env.enterCycle]
  case evaluation =>
    rw [evaluate_phase h]
    exact ⟨fun hclock => by rw [hclock, Env.phase_forClock_true], fun hclock => by rw [hclock, Env.phase_forClock_false],
      s.env.phase_forClock_ne_between _⟩

/-! ### Time (R403) -/

/-- The clock of `w` is at the position of `v` or after it, at most one cycle on, and where it stands every mark is
kept. -/
def Env.NotBefore (v w : Env) : Prop :=
  v.time ≤ w.time ∧ w.cycle ≤ v.cycle + 1 ∧ (w.time = v.time → ∀ x ∈ v.evaluated, x ∈ w.evaluated)

/-- Neither the inputs to come nor the host's marks belong to the clock, and marks are only added. -/
theorem Env.notBefore_of_same_clock {v w : Env} (hphase : w.phase = v.phase) (hcycle : w.cycle = v.cycle)
    (hmarks : ∀ x ∈ v.evaluated, x ∈ w.evaluated) : v.NotBefore w := by
  have htime : w.time = v.time := by rw [Env.time, Env.time, hphase, hcycle]
  exact ⟨htime.ge, by omega, fun _ => hmarks⟩

theorem Env.notBefore_advance (v : Env) : v.NotBefore v.advance := by
  obtain ⟨schedule, phase, cycle, evaluated, inspected, stopped⟩ := v
  cases phase
  case between =>
    simp [Env.NotBefore, Env.advance, Env.enterCycle, Env.time]
    omega
  all_goals simp [Env.NotBefore, Env.advance, Env.enter, Env.time]

/-- The clock's move for an evaluation, and the marks added after it. -/
theorem Env.notBefore_forClock (v : Env) (clock : Option Sig) {marks : List (Component × Inst)}
    (hmarks : ∀ x ∈ (v.forClock clock).evaluated, x ∈ marks) :
    v.NotBefore { v.forClock clock with evaluated := marks } := by
  obtain ⟨schedule, phase, cycle, evaluated, inspected, stopped⟩ := v
  revert hmarks
  cases phase <;> rcases clock with _ | _ | _ <;>
    simp [Env.NotBefore, Env.forClock, Env.enter, Env.enterCycle, Env.time] <;> omega

theorem evaluate_notBefore {i : Instr} {s t : State} (h : evaluate i s = .next t) : s.env.NotBefore t.env := by
  rw [(evaluate_env h).2]
  refine Env.notBefore_forClock s.env (clockOf i) fun x hx => ?_
  split
  · exact List.mem_cons_of_mem _ hx
  · exact hx

theorem hostMove_notBefore {m : HostMove} {s t : State} (h : hostMove m s = .next t) : s.env.NotBefore t.env := by
  obtain ⟨-, ⟨e, -, -, rfl⟩ | ⟨b, -, rfl⟩ | ⟨e, v, -, -, -, rfl⟩ | ⟨-, rfl⟩⟩ := hostMove_next h <;>
    exact Env.notBefore_of_same_clock rfl rfl fun _ => id

theorem runInput_notBefore {x : Input} {s t : State} (h : runInput x s = .next t) : s.env.NotBefore t.env := by
  rcases runInput_next h with ⟨f, i, -, -, heval⟩ | ⟨c, n, values, i, -, -, heval⟩ | ⟨c, n, values, f, -, -, rfl⟩
    | ⟨-, rfl⟩ | ⟨m, -, hmove⟩
  · exact evaluate_notBefore heval
  · exact evaluate_notBefore heval
  · exact Env.notBefore_of_same_clock rfl rfl fun _ => id
  · exact Env.notBefore_advance _
  · exact hostMove_notBefore hmove

/-- Settles O49: a step waits, or takes an input, whose removal does not move the clock. -/
theorem clockOnlyMovesForward : Obligations.ClockOnlyMovesForward := by
  intro s t h
  obtain ⟨-, -, ⟨-, rfl⟩ | ⟨x, rest, -, hrun⟩⟩ := step_next h
  · exact Env.notBefore_of_same_clock rfl rfl fun _ => id
  · have hnotBefore := runInput_notBefore hrun
    exact hnotBefore

/-! ### What a low phase keeps (R408) -/

theorem evaluate_changed_bit {i : Instr} {s t : State} {e : BitRef} (h : evaluate i s = .next t)
    (hne : t.readBit e ≠ s.readBit e) :
    i.mnemonic ∈ bitWriters e.bank ∧ e.i = i.inst ∧ clockOf i = some true := by
  rcases evaluate_next h with ⟨-, -, hexec⟩ | ⟨-, hexec⟩
  · exact exec_changed_bit hexec hne
  · exact exec_changed_bit hexec hne

/-- An input that changes a bit is an evaluation: the host may write no bit. -/
theorem runInput_changed_bit {x : Input} {s t : State} {e : BitRef} (h : runInput x s = .next t)
    (hne : t.readBit e ≠ s.readBit e) : ∃ i, evaluate i s = .next t := by
  rcases runInput_next h with ⟨f, i, -, -, heval⟩ | ⟨c, n, values, i, -, -, heval⟩ | ⟨c, n, values, f, -, -, rfl⟩
    | ⟨-, rfl⟩ | ⟨m, rfl, hmove⟩
  · exact ⟨i, heval⟩
  · exact ⟨i, heval⟩
  · exact absurd rfl hne
  · exact absurd rfl hne
  · obtain ⟨-, ⟨e', -, -, rfl⟩ | ⟨b, -, rfl⟩ | ⟨e', v, -, -, -, rfl⟩ | ⟨-, rfl⟩⟩ := hostMove_next hmove
    · exact absurd rfl hne
    · exact absurd rfl hne
    · exact absurd (s.readBit_commitWord e' v e) hne
    · exact absurd rfl hne

/-- A host move that succeeds and changes a word changes a keyboard value. -/
theorem hostMove_changed_keyboard {e : WordRef} {v : Word} {s t : State} (h : hostMove (.writeWord e v) s = .next t) :
    e.bank = .kbd ∨ e.bank = .memKbd := by
  obtain ⟨-, ⟨e', hm, -⟩ | ⟨b, hm, -⟩ | ⟨e', v', hm, hkeyboard, -⟩ | ⟨hm, -⟩⟩ := hostMove_next h <;> cases hm
  simpa [WordRef.isKeyboard] using hkeyboard

/-- Settles O29: a commit needs a high clock, so the evaluation that makes it ends in a high phase; the host changes
keyboard values only. -/
theorem lowPhaseCommitsNothing : Obligations.LowPhaseCommitsNothing := by
  have hhigh : ∀ {i : Instr} {s t : State}, evaluate i s = .next t → clockOf i = some true → t.env.phase = .high := by
    intro i s t h hclock
    rw [evaluate_phase h, hclock, Env.phase_forClock_true]
  refine ⟨fun i s t hlow h => ⟨fun e => ?execWord, fun e => ?execBit⟩,
    fun i s t h hlow => ⟨fun e => ?evaluateWord, fun e => ?evaluateBit⟩,
    fun s t h => ⟨fun e hkbd hmemKbd hne => ?stepWord, fun e hne => ?stepBit⟩⟩
  case execWord =>
    by_contra hne
    have hclock := (exec_changed_word h hne).2.2
    rw [hlow] at hclock
    cases hclock
  case execBit =>
    by_contra hne
    have hclock := (exec_changed_bit h hne).2.2
    rw [hlow] at hclock
    cases hclock
  case evaluateWord =>
    by_contra hne
    rw [hhigh h (evaluate_changed_word h hne).2.2] at hlow
    cases hlow
  case evaluateBit =>
    by_contra hne
    rw [hhigh h (evaluate_changed_bit h hne).2.2] at hlow
    cases hlow
  case stepWord =>
    obtain ⟨-, -, ⟨-, rfl⟩ | ⟨x, rest, -, hrun⟩⟩ := step_next h
    · exact absurd rfl hne
    · rcases runInput_changed_word hrun hne with ⟨i, heval, -⟩ | ⟨-, rfl⟩
      · exact hhigh heval (evaluate_changed_word heval hne).2.2
      · exact absurd (hostMove_changed_keyboard hrun) (not_or.mpr ⟨hkbd, hmemKbd⟩)
  case stepBit =>
    obtain ⟨-, -, ⟨-, rfl⟩ | ⟨x, rest, -, hrun⟩⟩ := step_next h
    · exact absurd rfl hne
    · obtain ⟨i, heval⟩ := runInput_changed_bit hrun hne
      exact hhigh heval (evaluate_changed_bit heval hne).2.2

/-! ### A step, case by case -/

/-- Settles O53: the mark is looked at first. -/
theorem faultedBlockTakesNoStep : Obligations.FaultedBlockTakesNoStep := by
  intro s f hmark
  simp only [step, hmark]

/-- R411. -/
theorem step_of_stopped {s : State} (hmark : s.faultMark = none) (hstopped : s.env.stopped = true) :
    step s = .refused .runEnded := by
  simp only [step, hmark, hstopped, if_true]

/-- R314. -/
theorem step_of_no_input {s : State} (hmark : s.faultMark = none) (hrunning : s.env.stopped = false)
    (hschedule : s.env.schedule = []) : step s = .next s := by
  simp only [step, hmark, hrunning, hschedule, Bool.false_eq_true, if_false]

theorem step_of_input {s : State} {x : Input} {rest : List Input} (hmark : s.faultMark = none)
    (hrunning : s.env.stopped = false) (hschedule : s.env.schedule = x :: rest) :
    step s = runInput x { s with env := { s.env with schedule := rest } } := by
  simp only [step, hmark, hrunning, hschedule, Bool.false_eq_true, if_false]

/-- Settles O57: an empty schedule is the waiting step. -/
theorem waitingChangesNothing : Obligations.WaitingChangesNothing := fun _ => step_of_no_input

/-- Settles O47: the step takes the input, and the evaluation of the operation it decodes to is `exec` at the clock's
position. -/
theorem stepRunsTheDecodedOperation : Obligations.StepRunsTheDecodedOperation := by
  intro s f rest i hmark hrunning hschedule hdecode
  rw [step_of_input hmark hrunning hschedule]
  simp only [runInput, hdecode]
  rfl

/-! ### The host (R311) -/

/-- Settles O54: the branches of a host move. -/
theorem hostMovesOnlyBetweenCycles : Obligations.HostMovesOnlyBetweenCycles := by
  intro s m e b v q
  refine ⟨fun hphase => ?during, fun hphase => ⟨fun hrange => ?readWord, ?readBit, fun hbank haddr => ?writeKeyboard,
    fun hkbd hmemKbd => ?writeOther, ?writeBit, ?stop⟩⟩
  case during => simp only [runInput, hostMove, if_neg hphase]
  case readWord => simp only [runInput, hostMove, if_pos hphase, hrange, if_true]
  case readBit => simp only [runInput, hostMove, if_pos hphase]
  case writeKeyboard =>
    have hlegal : (e.isKeyboard && e.inRange s.config) = true := by
      rcases hbank with hbank | hbank <;> simp [WordRef.isKeyboard, WordRef.inRange, bankSize, hbank, haddr]
    refine ⟨s.commitWord e v, by simp only [runInput, hostMove, if_pos hphase, hlegal, if_true], by simp, rfl, ?_⟩
    exact s.changesOnlyWord_commit e v s.outputs
  case writeOther =>
    have hillegal : (e.isKeyboard && e.inRange s.config) = false := by simp [WordRef.isKeyboard, hkbd, hmemKbd]
    simp only [runInput, hostMove, if_pos hphase, hillegal, Bool.false_eq_true, if_false]
  case writeBit => simp only [runInput, hostMove, if_pos hphase]
  case stop =>
    refine ⟨{ s with env := { s.env with stopped := true } }, by simp only [runInput, hostMove, if_pos hphase], rfl, ?_⟩
    exact fun hmark => step_of_stopped hmark rfl

/-- R311: a host move does not change the parameters. -/
theorem hostMove_config {m : HostMove} {s t : State} (h : hostMove m s = .next t) : t.config = s.config := by
  obtain ⟨-, ⟨e, -, -, rfl⟩ | ⟨b, -, rfl⟩ | ⟨e, v, -, -, -, rfl⟩ | ⟨-, rfl⟩⟩ := hostMove_next h <;> rfl

theorem runInput_config {x : Input} {s t : State} (h : runInput x s = .next t) : t.config = s.config := by
  rcases runInput_next h with ⟨f, i, -, -, heval⟩ | ⟨c, n, values, i, -, -, heval⟩ | ⟨c, n, values, f, -, -, rfl⟩
    | ⟨-, rfl⟩ | ⟨m, -, hmove⟩
  · exact (evaluate_env heval).1
  · exact (evaluate_env heval).1
  · rfl
  · rfl
  · exact hostMove_config hmove

/-- Settles O56: a step waits or takes an input, and no input changes the parameters. -/
theorem stepsKeepTheParameters : Obligations.StepsKeepTheParameters := by
  intro s t h
  obtain ⟨-, -, ⟨-, rfl⟩ | ⟨x, rest, -, hrun⟩⟩ := step_next h
  · rfl
  · have hconfig := runInput_config hrun
    exact hconfig

end Sys2Proof.Machine
end

section
/-! PROOFS. The values at power-on (70_reset_and_hazards.md R400), and the invariant: it holds at power-on, and every layer
of a step keeps it. -/

namespace Sys2Proof.Machine

/-! ### Power-on -/

@[simp] theorem Store.words_empty (b : WordBank) : Store.empty.words b = [] := by cases b <;> rfl
@[simp] theorem Store.bits_empty (b : BitBank) : Store.empty.bits b = [] := by cases b <;> rfl

theorem State.readWord_initial (cfg : Config) (e : WordRef) :
    (State.initial cfg).readWord e = powerOnWord cfg e.bank e.key := by
  simp [State.readWord, State.initial, Memory.get]

theorem State.readBit_initial (cfg : Config) (e : BitRef) :
    (State.initial cfg).readBit e = powerOnBit cfg e.bank e.key := by
  simp [State.readBit, State.initial, Memory.get]

theorem powerOnWord_zero {cfg : Config} (h : cfg.powerOn = .zero) (b : WordBank) (key : Nat) :
    powerOnWord cfg b key = 0x0000#16 := by
  cases b <;> simp [powerOnWord, h, kbdInit]

theorem powerOnWord_keyboard (cfg : Config) {b : WordBank} (h : b = .kbd ∨ b = .memKbd) (key : Nat) :
    powerOnWord cfg b key = 0x0000#16 := by
  rcases h with rfl | rfl <;> rfl

/-- Settles O58: no cell is listed at power-on, so every element reads as its power-on value. -/
theorem powerOnValues : Obligations.PowerOnValues := by
  refine ⟨fun cfg h => ⟨fun e => ?word, fun e => ?bit⟩, fun cfg e h => ?keyboard, rfl, rfl⟩
  case word => rw [State.readWord_initial, powerOnWord_zero h]
  case bit => rw [State.readBit_initial, powerOnBit, h]
  case keyboard => rw [State.readWord_initial, powerOnWord_keyboard cfg h]

/-- Settles O59: the stores are empty, and nothing has been evaluated, faulted or stopped. -/
theorem powerOnMeetsTheInvariant : Obligations.PowerOnMeetsTheInvariant := by
  intro cfg h
  exact {
    config := h
    canonical := ⟨fun b => by simpa only [State.initial, Store.words_empty] using Memory.wf_nil _,
      fun b => by simpa only [State.initial, Store.bits_empty] using Memory.wf_nil _⟩
    inRange := ⟨fun b => by simp [State.initial], fun b => by simp [State.initial]⟩
    faultSilent := fun _ => rfl
    freshBetween := fun _ => rfl
    once := List.nodup_nil
    stoppedBetween := fun _ => rfl }

/-! ### The invariant, layer by layer -/

/-- The environment's side may change within its own clauses. -/
theorem State.Inv.setEnv {s : State} (h : s.Inv) {v : Env} (hfresh : v.phase = .between → v.evaluated = [])
    (honce : v.evaluated.Nodup) (hstopped : v.stopped = true → v.phase = .between) :
    ({ s with env := v } : State).Inv where
  config := h.config
  canonical := h.canonical
  inRange := h.inRange
  faultSilent := h.faultSilent
  freshBetween := hfresh
  once := honce
  stoppedBetween := hstopped

/-- A word that exists may be committed. -/
theorem State.Inv.commitWord {s : State} (h : s.Inv) {e : WordRef} (he : e.inRange s.config = true) (v : Word) :
    (s.commitWord e v).Inv where
  config := h.config
  canonical := State.canonical_commitWord h.canonical e v
  inRange := State.cellsInRange_commitWord h.inRange he v
  faultSilent := h.faultSilent
  freshBetween := h.freshBetween
  once := h.once
  stoppedBetween := h.stoppedBetween

theorem State.Inv.commitBit {s : State} (h : s.Inv) (e : BitRef) (v : Sig) : (s.commitBit e v).Inv where
  config := h.config
  canonical := State.canonical_commitBit h.canonical e v
  inRange := State.cellsInRange_commitBit h.inRange e v
  faultSilent := h.faultSilent
  freshBetween := h.freshBetween
  once := h.once
  stoppedBetween := h.stoppedBetween

/-- A block without a fault mark may drive outputs. -/
theorem State.Inv.drive {s : State} (h : s.Inv) (hmark : s.faultMark = none) (o : List (PortName × PortValue)) :
    (s.drive o).Inv where
  config := h.config
  canonical := h.canonical
  inRange := h.inRange
  faultSilent := fun hfault => absurd hmark hfault
  freshBetween := h.freshBetween
  once := h.once
  stoppedBetween := h.stoppedBetween

theorem State.Inv.driveDraw {s : State} (h : s.Inv) (hmark : s.faultMark = none) : s.driveDraw.Inv where
  config := h.config
  canonical := h.canonical
  inRange := h.inRange
  faultSilent := fun hfault => absurd hmark hfault
  freshBetween := h.freshBetween
  once := h.once
  stoppedBetween := h.stoppedBetween

theorem State.Inv.raiseFault {s : State} (h : s.Inv) (f : Fault) : (s.raiseFault f).Inv where
  config := h.config
  canonical := h.canonical
  inRange := h.inRange
  faultSilent := fun _ => rfl
  freshBetween := h.freshBetween
  once := h.once
  stoppedBetween := h.stoppedBetween

/-- A well-formed operation keeps the invariant: it commits to an element that exists. -/
theorem exec_keeps_inv {i : Instr} {s t : State} (hs : s.Inv) (hwf : i.wellFormed s.config = true)
    (hmark : s.faultMark = none) (h : exec i s = .next t) : t.Inv := by
  rcases exec_cases i s with ⟨o, h'⟩ | ⟨e, v, h', -, -, -, -, hrange⟩ | ⟨e, v, h', -⟩ | ⟨h', -⟩ | ⟨f, h', -⟩ <;>
    obtain rfl := Host.Outcome.next.inj (h'.symm.trans h)
  · exact hs.drive hmark o
  · exact (hs.commitWord (hrange hwf) v).drive hmark _
  · exact (hs.commitBit e v).drive hmark _
  · exact hs.driveDraw hmark
  · exact hs.raiseFault f

/-- The clock's move keeps the marks free of repetition: it keeps the marks, or drops them all. -/
theorem Env.nodup_forClock {v : Env} (h : v.evaluated.Nodup) (clock : Option Sig) :
    (v.forClock clock).evaluated.Nodup := by
  rcases v.forClock_cases clock with hsame | hfresh
  · rwa [hsame]
  · rw [hfresh]
    exact List.nodup_nil

/-- R405: an evaluation adds a mark that was not there yet, in a phase that has begun. -/
theorem evaluate_keeps_inv {i : Instr} {s t : State} (hs : s.Inv) (hwf : i.wellFormed s.config = true)
    (hmark : s.faultMark = none) (hrunning : s.env.stopped = false) (h : evaluate i s = .next t) : t.Inv := by
  have hphase := s.env.phase_forClock_ne_between (clockOf i)
  have honce := Env.nodup_forClock hs.once (clockOf i)
  have hstopped : (s.env.forClock (clockOf i)).stopped ≠ true := by simp [hrunning]
  have hnext := evaluate_next h
  generalize s.env.forClock (clockOf i) = v at *
  rcases hnext with ⟨-, hnew, hexec⟩ | ⟨-, hexec⟩
  · have hready := hs.setEnv (v := { v with evaluated := (i.component, i.inst) :: v.evaluated })
      (fun h => absurd h hphase) (List.nodup_cons.mpr ⟨hnew, honce⟩) fun h => absurd h hstopped
    exact exec_keeps_inv hready hwf hmark hexec
  · have hready := hs.setEnv (v := v) (fun h => absurd h hphase) honce fun h => absurd h hstopped
    exact exec_keeps_inv hready hwf hmark hexec

/-- R311: the host commits to an element that exists, and stops the run between cycles. -/
theorem hostMove_keeps_inv {m : HostMove} {s t : State} (hs : s.Inv) (h : hostMove m s = .next t) : t.Inv := by
  obtain ⟨hphase, ⟨e, -, -, rfl⟩ | ⟨b, -, rfl⟩ | ⟨e, v, -, -, hrange, rfl⟩ | ⟨-, rfl⟩⟩ := hostMove_next h
  · exact hs.setEnv hs.freshBetween hs.once hs.stoppedBetween
  · exact hs.setEnv hs.freshBetween hs.once hs.stoppedBetween
  · exact hs.commitWord hrange v
  · exact hs.setEnv hs.freshBetween hs.once fun _ => hphase

/-- An input keeps the invariant: the decoder and the boundary let well-formed operations pass only. -/
theorem runInput_keeps_inv {x : Input} {s t : State} (hs : s.Inv) (hmark : s.faultMark = none)
    (hrunning : s.env.stopped = false) (h : runInput x s = .next t) : t.Inv := by
  rcases runInput_next h with ⟨f, i, -, hdecode, heval⟩ | ⟨c, n, values, i, -, haccepted, heval⟩
    | ⟨c, n, values, f, -, -, rfl⟩ | ⟨-, rfl⟩ | ⟨m, -, hmove⟩
  · exact evaluate_keeps_inv hs (decodeThenEncode s.config f i hdecode).2 hmark hrunning heval
  · exact evaluate_keeps_inv hs (boundary_accepted_wellFormed haccepted) hmark hrunning heval
  · exact hs.raiseFault f
  · refine hs.setEnv (fun _ => s.env.evaluated_advance) ?_ fun hstopped => ?_
    · rw [Env.evaluated_advance]
      exact List.nodup_nil
    · rw [Env.stopped_advance, hrunning] at hstopped
      cases hstopped
  · exact hostMove_keeps_inv hs hmove

/-- Settles O60: a step waits, or takes an input off the schedule, of which the invariant says nothing, and runs it. -/
theorem stepKeepsTheInvariant : Obligations.StepKeepsTheInvariant := by
  intro s t hs h
  obtain ⟨hmark, hrunning, ⟨-, rfl⟩ | ⟨x, rest, -, hrun⟩⟩ := step_next h
  · exact hs
  · have hready := hs.setEnv (v := { s.env with schedule := rest }) hs.freshBetween hs.once hs.stoppedBetween
    exact runInput_keeps_inv hready hmark hrunning hrun

end Sys2Proof.Machine
end
